-- ==== Sys2Proof/Word.lean ====
section
/-! DEFINITION. The widths of SDCORE's values (spec/00_scope.md R7: every value is unsigned). -/

namespace Sys2Proof

/-- One byte: every unit on the transport and every cell of `BUF` and `CSDR` (R41, R63). -/
abbrev Byte := BitVec 8

/-- The 32-bit argument of a request or of a command frame (R60, R62). -/
abbrev Word := BitVec 32

/-- A request word, `op[2:0] ++ arg[31:0]` (R60). -/
abbrev ReqWord := BitVec 35

/-- A command frame as one number, bit 47 the first bit of the first byte sent (R62). -/
abbrev FrameWord := BitVec 48

/-- A command index, "an opcode in [0,63]" (R64). -/
abbrev CmdIndex := BitVec 6

end Sys2Proof
end

