-- ==== Sys2Proof/Config.lean ====
section
/-! DEFINITION. The build-time parameters of one SDCORE (spec/00_scope.md R5, R6) and the free values: what the
environment answers when State queues no answer for it, and the one result the spec leaves unspecified. -/

namespace Sys2Proof

/-- `INIT_STRATEGY` (R5): which ready handshake `initialize` uses. -/
inductive InitStrategy where
  | acmd
  | legacy
  deriving DecidableEq, Repr, Inhabited

/-- Every row of R6's table, with the table's value as the default; the five OPEN rows have none. Values marked GK or D
there are the spec's own or general knowledge (log 3). -/
structure Config where
  /-- `INIT_STRATEGY`, OPEN. -/
  initStrategy : InitStrategy
  /-- `INIT_TIMEOUT_MS`, OPEN. -/
  initTimeoutMs : Nat
  /-- `READ_TIMEOUT_MS`, OPEN. -/
  readTimeoutMs : Nat
  /-- `WRITE_TIMEOUT_MS`, OPEN. -/
  writeTimeoutMs : Nat
  /-- `RD_TIMEOUT_ABORT`, OPEN (R121). -/
  rdTimeoutAbort : Bool
  /-- `TICK_W`: the width of the tick and of `t0`. -/
  tickW : Nat := 16
  /-- `CMD_RESP_POLLS`. -/
  cmdRespPolls : Nat := 255
  /-- `PRIME_BYTES`. -/
  primeBytes : Nat := 10
  /-- `BLOCK_LEN`. -/
  blockLen : Nat := 512
  /-- `REG_LEN`. -/
  regLen : Nat := 16
  /-- `TRAILER_LEN`. -/
  trailerLen : Nat := 2
  /-- `FRAME_LEN`. -/
  frameLen : Nat := 6
  /-- `BLOCK_SHIFT`. -/
  blockShift : Nat := 9
  /-- `IDLE_BYTE`. -/
  idleByte : Byte := 0xFF#8
  /-- `FILL_BYTE`. -/
  fillByte : Byte := 0xFF#8
  /-- `CRC_CMD0`. -/
  crcCmd0 : Byte := 0x95#8
  /-- `START_TOKEN`. -/
  startToken : Byte := 0xFE#8
  /-- `R1_IDLE`. -/
  r1Idle : Byte := 0x01#8
  /-- `R1_READY`. -/
  r1Ready : Byte := 0x00#8
  /-- `DATA_RES_MASK`. -/
  dataResMask : Byte := 0x0F#8
  /-- `DATA_RES_ACCEPTED`. -/
  dataResAccepted : Byte := 0x05#8
  /-- `CMD_RESET`. -/
  cmdReset : CmdIndex := 0#6
  /-- `CMD_LEGACY_INIT`. -/
  cmdLegacyInit : CmdIndex := 1#6
  /-- `CMD_READ_CSD`. -/
  cmdReadCsd : CmdIndex := 9#6
  /-- `CMD_READ_CID`. -/
  cmdReadCid : CmdIndex := 10#6
  /-- `CMD_READ_BLOCK`. -/
  cmdReadBlock : CmdIndex := 17#6
  /-- `CMD_WRITE_BLOCK`. -/
  cmdWriteBlock : CmdIndex := 24#6
  /-- `CMD_APP_PREFIX`. -/
  cmdAppPrefix : CmdIndex := 55#6
  /-- `ACMD_INIT`. -/
  acmdInit : CmdIndex := 41#6
  deriving DecidableEq, Repr

/-- The strategy of the SDCORE that `State.reset` describes: R6 gives "no default", so the constant has no value here. -/
opaque Config.openInitStrategy : InitStrategy

/-- `RD_TIMEOUT_ABORT` of the SDCORE that `State.reset` describes: R6 and R121 give no default, so none is chosen. -/
opaque Config.openRdTimeoutAbort : Bool

/-- The `n`-th free value for a received byte: "a draw: any of the 256 values, under no law that SDCORE knows" (R21). -/
opaque Config.freeRecv : Nat → Byte

/-- The `n`-th free value for a tick read, before its reduction to `TICK_W` bits (R181). -/
opaque Config.freeTick : Nat → Nat

/-- The `n`-th free value for `capacityOut` where the shift would be negative: "any 32-bit value (a draw)" (R142). -/
opaque Config.freeCapacity : Nat → Word

/-- The table's defaults with the three suggested timeouts 2000, 300 and 600 (R6, general knowledge G14; log 2). -/
def Config.standard (strategy : InitStrategy) (abort : Bool) : Config where
  initStrategy := strategy
  initTimeoutMs := 2000
  readTimeoutMs := 300
  writeTimeoutMs := 600
  rdTimeoutAbort := abort

/-- The configuration of `State.reset`: the defaults, with the two rows that have no default left open (log 1). -/
def Config.atReset : Config := Config.standard Config.openInitStrategy Config.openRdTimeoutAbort

/-- The eight named command indices, in R6's order. -/
def Config.namedIndices (c : Config) : List CmdIndex :=
  [c.cmdReset, c.cmdLegacyInit, c.cmdReadCsd, c.cmdReadCid, c.cmdReadBlock, c.cmdWriteBlock, c.cmdAppPrefix, c.acmdInit]

/-- What a configuration must meet: the timeouts fit the tick (R203); the lengths fit the memories, the counters and the
six-byte frame (R12, R40, R42, R62); the two response values are responses and differ (R67); the accepted pattern lies
under its mask (R69); the named indices differ (R72 to R79). -/
def Config.wf (c : Config) : Bool :=
  decide (c.initTimeoutMs < 2 ^ c.tickW - 1) && decide (c.readTimeoutMs < 2 ^ c.tickW - 1) &&
  decide (c.writeTimeoutMs < 2 ^ c.tickW - 1) &&
  decide (0 < c.cmdRespPolls) && decide (c.cmdRespPolls ≤ 255) &&
  decide (c.blockLen ≤ 512) && decide (c.regLen ≤ 16) && decide (11 ≤ c.regLen) && decide (c.regLen ≤ c.blockLen) &&
  decide (c.frameLen = 6) && decide (c.blockShift < 32) &&
  !c.r1Idle.getLsbD 7 && !c.r1Ready.getLsbD 7 && decide (c.r1Idle ≠ c.r1Ready) &&
  decide (c.dataResAccepted &&& c.dataResMask = c.dataResAccepted) &&
  decide c.namedIndices.Nodup

end Sys2Proof
end

