-- ==== Sys2Proof/Syntax.lean ====
section
/-! DEFINITION. The rows of spec/opcode_table.json: host requests (HOSTREQ), card command frames (FRAME) and byte units
(BYTE). One constructor per row; an operand is every bit the row leaves open, the ignored ones too, so that a word is
never shortened. -/

namespace Sys2Proof

/-- One row of the opcode table with its open bits. -/
inductive Instr where
  /-- `nop` (R60): "the request is not a request". -/
  | nop (arg : Word)
  /-- `initialize` (R131); `arg` is ignored but sampled (R25). -/
  | initCard (arg : Word)
  /-- `capacity` (R140); `arg` is ignored but sampled (R25). -/
  | capacity (arg : Word)
  /-- `readRegister` (R145): `cmd = arg[5:0]`, `rest = arg[31:6]` is ignored. -/
  | readRegister (cmd : CmdIndex) (rest : BitVec 26)
  /-- `readBlock` (R148). -/
  | readBlock (blockNumber : Word)
  /-- `writeBlock` (R152). -/
  | writeBlock (blockNumber : Word)
  /-- `op = 6` (R61). -/
  | reserved6 (arg : Word)
  /-- `op = 7` (R61). -/
  | reserved7 (arg : Word)
  /-- The reset command's frame (R72). -/
  | cmd0
  /-- The legacy initialization command's frame (R73). -/
  | cmd1
  /-- The card-specific-data read's frame (R74). -/
  | cmd9
  /-- The card-identification read's frame (R75). -/
  | cmd10
  /-- The single-block-read frame (R76); `arg` is a block number shifted left. -/
  | cmd17 (arg : Word)
  /-- The single-block-write frame (R77). -/
  | cmd24 (arg : Word)
  /-- The application-command-prefix frame (R78). -/
  | cmd55
  /-- The application initialization command's frame (R79). -/
  | acmd41
  /-- The frame `readRegister` emits for an index that has no row of its own (R146). -/
  | cmdN (cmd : CmdIndex)
  /-- A byte with bit 7 set in the response poll (R67); `low` is bits 6 to 0. -/
  | r1NotYet (low : BitVec 7)
  /-- The ready-state response (R67). -/
  | r1Ready
  /-- The idle-state response (R67). -/
  | r1Idle
  /-- The byte of an idle bus (R68). -/
  | idleByte
  /-- The start-of-block token, received before a read payload, sent before a write payload (R68). -/
  | startToken
  /-- A data-response byte that accepts the block (R69); `b` is the whole byte. -/
  | dataResAccepted (b : Byte)
  /-- The filler byte SDCORE sends (R71, R131). -/
  | fillByte
  deriving DecidableEq, Repr

end Sys2Proof
end

