-- ==== Sys2Proof/WellFormed.lean ====
section
/-! DEFINITION. Which instructions stand for a word of their row. Most operands may hold any value; three rows restrict
theirs. -/

namespace Sys2Proof

/-- The low `BLOCK_SHIFT` bits of a block command's argument are 0 (R47, R76). -/
def alignedArg (c : Config) (arg : Word) : Bool := (arg >>> c.blockShift) <<< c.blockShift == arg

/-- `i` stands for a word of its row: a block command's argument is block aligned (R76, R77), the generic frame's index
has no row of its own (R146 and the table's note), an accepting data response has the accepted pattern (R69). -/
def Instr.wellFormed (c : Config) : Instr → Bool
  | .cmd17 arg => alignedArg c arg
  | .cmd24 arg => alignedArg c arg
  | .cmdN cmd => !c.namedIndices.contains cmd
  | .dataResAccepted b => b &&& c.dataResMask == c.dataResAccepted
  | .nop _ | .initCard _ | .capacity _ | .readRegister _ _ | .readBlock _ | .writeBlock _ | .reserved6 _
  | .reserved7 _ | .cmd0 | .cmd1 | .cmd9 | .cmd10 | .cmd55 | .acmd41 | .r1NotYet _ | .r1Ready | .r1Idle
  | .idleByte | .startToken | .fillByte => true

end Sys2Proof
end

