-- ==== Sys2Proof/Decode.lean ====
section
/-! DEFINITION. Decoding and encoding (spec/30_encoding.md). A request word decodes by its `op`; a frame by its fields;
a byte only together with the sequencer position it stands at, because "its meaning is fixed by the position in the
sequence the pseudocode defines". -/

namespace Sys2Proof

/-- The three formats (R60, R62, R63): one encoded unit. -/
inductive Wire where
  | hostReq (w : ReqWord)
  | frame (w : FrameWord)
  | byte (b : Byte)
  deriving DecidableEq, Repr

/-- What a byte is compared with at the position where it stands. -/
inductive ByteCtx where
  /-- Received while waiting for the bus to be idle (R101, R91 b). -/
  | busIdle
  /-- Received in the response poll (R102). -/
  | response
  /-- Received while waiting for the start-of-block token (R91 a). -/
  | tokenIn
  /-- Received as the data response of a write (R153 c). -/
  | dataResponse
  /-- Sent as the start-of-block token of a write (R153 a). -/
  | tokenOut
  /-- Sent as a filler: priming byte or write trailer (R71, R131). -/
  | filler
  deriving DecidableEq, Repr

/-- Why a word stands for no row of the table. -/
inductive DecodeError where
  /-- The frame's bits 47:46 are not `01` (R62). -/
  | badStartBits
  /-- The frame's checksum byte is not the one its index selects (R66). -/
  | badChecksum
  /-- The frame has an argument that no row with its index has (R65, R81). -/
  | noSuchFrame
  /-- The byte is "not equal" in the comparison at its position (R81): no row of the table there. -/
  | otherByte
  /-- More bits than the format has. -/
  | tooWide
  deriving DecidableEq, Repr

/-! ## Fields -/

/-- `op`, bits 34:32 of a request (R60). -/
def reqOp (w : ReqWord) : BitVec 3 := w.extractLsb' 32 3

/-- `arg`, bits 31:0 of a request (R60). -/
def reqArg (w : ReqWord) : Word := w.extractLsb' 0 32

/-- The request word of an operation and its argument (R60). -/
def reqWord (op : BitVec 3) (arg : Word) : ReqWord := op ++ arg

/-- `cmd = arg[5:0]` of a `readRegister` request (R60). -/
def argCmd (arg : Word) : CmdIndex := arg.extractLsb' 0 6

/-- Bits 47:46 of a frame (R62). -/
def frameStart (w : FrameWord) : BitVec 2 := w.extractLsb' 46 2

/-- `idx`, bits 45:40 of a frame (R62). -/
def frameIdx (w : FrameWord) : CmdIndex := w.extractLsb' 40 6

/-- `arg`, bits 39:8 of a frame (R62). -/
def frameArg (w : FrameWord) : Word := w.extractLsb' 8 32

/-- `cks`, bits 7:0 of a frame (R62). -/
def frameCks (w : FrameWord) : Byte := w.extractLsb' 0 8

/-- The checksum byte, selected by the index (R66). -/
def checksumByte (c : Config) (cmd : CmdIndex) : Byte := if cmd = c.cmdReset then c.crcCmd0 else c.fillByte

/-- The frame of a command and its argument: `01 ++ idx ++ arg ++ cks` (R62). -/
def frameWord (c : Config) (cmd : CmdIndex) (arg : Word) : FrameWord := 1#2 ++ cmd ++ arg ++ checksumByte c cmd

/-! ## Decoding -/

/-- A request word decodes by its `op` (R60, R61); every word has a row. -/
def decodeHostReq (w : ReqWord) : Instr :=
  match (reqOp w).toNat with
  | 0 => .nop (reqArg w)
  | 1 => .initCard (reqArg w)
  | 2 => .capacity (reqArg w)
  | 3 => .readRegister (argCmd (reqArg w)) ((reqArg w).extractLsb' 6 26)
  | 4 => .readBlock (reqArg w)
  | 5 => .writeBlock (reqArg w)
  | 6 => .reserved6 (reqArg w)
  | _ => .reserved7 (reqArg w)

/-- A frame with argument 0: the named rows first, then the generic one ("match the eight named rows first"). -/
def decodeZeroArg (c : Config) (cmd : CmdIndex) : Instr :=
  if cmd = c.cmdReset then .cmd0
  else if cmd = c.cmdLegacyInit then .cmd1
  else if cmd = c.cmdReadCsd then .cmd9
  else if cmd = c.cmdReadCid then .cmd10
  else if cmd = c.cmdReadBlock then .cmd17 0#32
  else if cmd = c.cmdWriteBlock then .cmd24 0#32
  else if cmd = c.cmdAppPrefix then .cmd55
  else if cmd = c.acmdInit then .acmd41
  else .cmdN cmd

/-- A frame decodes by its fields (R62 to R66, R72 to R79, R146). -/
def decodeFrame (c : Config) (w : FrameWord) : Except DecodeError Instr :=
  if frameStart w ≠ 1#2 then .error .badStartBits
  else if frameCks w ≠ checksumByte c (frameIdx w) then .error .badChecksum
  else if frameArg w = 0#32 then .ok (decodeZeroArg c (frameIdx w))
  else if alignedArg c (frameArg w) = false then .error .noSuchFrame
  else if frameIdx w = c.cmdReadBlock then .ok (.cmd17 (frameArg w))
  else if frameIdx w = c.cmdWriteBlock then .ok (.cmd24 (frameArg w))
  else .error .noSuchFrame

/-- A byte decodes by the comparison in force at its position (R67 to R69, R71, R81). -/
def decodeByte (c : Config) (ctx : ByteCtx) (b : Byte) : Except DecodeError Instr :=
  match ctx with
  | .busIdle => if b = c.idleByte then .ok .idleByte else .error .otherByte
  | .response =>
    if b.getLsbD 7 then .ok (.r1NotYet (b.extractLsb' 0 7))
    else if b = c.r1Ready then .ok .r1Ready
    else if b = c.r1Idle then .ok .r1Idle
    else .error .otherByte
  | .tokenIn => if b = c.startToken then .ok .startToken else .error .otherByte
  | .tokenOut => if b = c.startToken then .ok .startToken else .error .otherByte
  | .dataResponse => if b &&& c.dataResMask = c.dataResAccepted then .ok (.dataResAccepted b) else .error .otherByte
  | .filler => if b = c.fillByte then .ok .fillByte else .error .otherByte

/-- The decoder: total on any unit, refusing by name. -/
def decode (c : Config) (ctx : ByteCtx) : Wire → Except DecodeError Instr
  | .hostReq w => .ok (decodeHostReq w)
  | .frame w => decodeFrame c w
  | .byte b => decodeByte c ctx b

/-! ## Encoding -/

/-- The unit of a well-formed instruction. -/
def encode (c : Config) : Instr → Wire
  | .nop arg => .hostReq (reqWord 0#3 arg)
  | .initCard arg => .hostReq (reqWord 1#3 arg)
  | .capacity arg => .hostReq (reqWord 2#3 arg)
  | .readRegister cmd rest => .hostReq (reqWord 3#3 (rest ++ cmd))
  | .readBlock n => .hostReq (reqWord 4#3 n)
  | .writeBlock n => .hostReq (reqWord 5#3 n)
  | .reserved6 arg => .hostReq (reqWord 6#3 arg)
  | .reserved7 arg => .hostReq (reqWord 7#3 arg)
  | .cmd0 => .frame (frameWord c c.cmdReset 0#32)
  | .cmd1 => .frame (frameWord c c.cmdLegacyInit 0#32)
  | .cmd9 => .frame (frameWord c c.cmdReadCsd 0#32)
  | .cmd10 => .frame (frameWord c c.cmdReadCid 0#32)
  | .cmd17 arg => .frame (frameWord c c.cmdReadBlock arg)
  | .cmd24 arg => .frame (frameWord c c.cmdWriteBlock arg)
  | .cmd55 => .frame (frameWord c c.cmdAppPrefix 0#32)
  | .acmd41 => .frame (frameWord c c.acmdInit 0#32)
  | .cmdN cmd => .frame (frameWord c cmd 0#32)
  | .r1NotYet low => .byte (1#1 ++ low)
  | .r1Ready => .byte c.r1Ready
  | .r1Idle => .byte c.r1Idle
  | .idleByte => .byte c.idleByte
  | .startToken => .byte c.startToken
  | .dataResAccepted b => .byte b
  | .fillByte => .byte c.fillByte

/-- A position at which the instruction's byte stands (of no matter for the two other formats). `startToken` stands at
two: here the received one. -/
def Instr.ctx : Instr → ByteCtx
  | .r1NotYet _ | .r1Ready | .r1Idle => .response
  | .idleByte => .busIdle
  | .startToken => .tokenIn
  | .dataResAccepted _ => .dataResponse
  | .fillByte => .filler
  | .nop _ | .initCard _ | .capacity _ | .readRegister _ _ | .readBlock _ | .writeBlock _ | .reserved6 _
  | .reserved7 _ | .cmd0 | .cmd1 | .cmd9 | .cmd10 | .cmd17 _ | .cmd24 _ | .cmd55 | .acmd41 | .cmdN _ => .busIdle

/-! ## Words as the opcode table numbers them -/

/-- The position the model reads a bare byte of the table at, the byte alone not fixing one: the exact rows at their own
position, a low nibble of 5 without bit 7 as a data response, anything else as a response (log 13). -/
def tableCtx (c : Config) (b : Byte) : ByteCtx :=
  if b = c.idleByte then .busIdle
  else if b = c.startToken then .tokenIn
  else if b.getLsbD 7 then .response
  else if b = c.r1Ready ∨ b = c.r1Idle then .response
  else if b &&& c.dataResMask = c.dataResAccepted then .dataResponse
  else .response

/-- The unit that `nbits` bits with value `w` are: 8 a byte, 48 a frame, 35 (or its five whole bytes, 40) a request. -/
def wireOf (nbits w : Nat) : Except DecodeError Wire :=
  match nbits with
  | 8 => if w < 2 ^ 8 then .ok (.byte (BitVec.ofNat 8 w)) else .error .tooWide
  | 48 => if w < 2 ^ 48 then .ok (.frame (BitVec.ofNat 48 w)) else .error .tooWide
  | 35 => if w < 2 ^ 35 then .ok (.hostReq (BitVec.ofNat 35 w)) else .error .tooWide
  | 40 => if w < 2 ^ 35 then .ok (.hostReq (BitVec.ofNat 35 w)) else .error .tooWide
  | _ => .error .tooWide

/-- The decoder on a unit that stands at no known position, as the opcode table lists it. -/
def decodeAlone (c : Config) (u : Wire) : Except DecodeError Instr :=
  match u with
  | .byte b => decode c (tableCtx c b) u
  | .frame _ | .hostReq _ => decode c .busIdle u

/-- The instruction the decoder reads from a word numbered as spec/opcode_table.json numbers it, with the table's own
constants. -/
def decodeTableWord (nbits w : Nat) : Option Instr :=
  match wireOf nbits w with
  | .error _ => none
  | .ok u => (decodeAlone Config.atReset u).toOption

end Sys2Proof
end

