-- ==== Sys2Proof/Machine/State.lean ====
section
/-! DEFINITION. SDCORE's state (spec/10_state.md R10 to R29), the environment's queued answers, and the state after
reset. -/

namespace Sys2Proof.Machine

/-- The ten named error codes, in the order the source lists them (spec/60_exceptions.md R161). The last two are
"reserved": no rule produces them (R171). -/
inductive ErrorName where
  | resetNotAcknowledged
  | readyFailedAcmd
  | readyFailedLegacy
  | writeCommandRejected
  | readCommandRejected
  | readStartTokenTimeout
  | writeDataRejected
  | writeBusyTimeout
  | writeToBlockZero
  | writeStatusCheckFailed
  deriving DecidableEq, Repr

/-- The two byte memories SDCORE reads and writes (R40, R42). -/
inductive Dest where
  | buf
  | csdr
  deriving DecidableEq, Repr

/-- The three calls of XFER: `capacity` reads 16 bytes into `CSDR`, `readRegister` 16 bytes into `BUF`, `readBlock` 512
bytes into `BUF` (spec/42_data_transfer.md R115, R120). -/
inductive Xfer where
  | capacity
  | register
  | block
  deriving DecidableEq, Repr

/-- The call sites of WAITTOKEN (spec/40_token_wait.md R91). -/
inductive Wait where
  | startToken (x : Xfer)
  | writeBusy
  deriving DecidableEq, Repr

/-- The calls of CARDCMD, each with the continuation that awaits its response (R13's call chains). -/
inductive Call where
  /-- `initialize` phase 1 (R132). -/
  | reset
  /-- `initialize` phase 2, LEGACY (R133). -/
  | legacyInit
  /-- CARDACMD's first frame (R104). -/
  | appPrefix
  /-- CARDACMD's second frame, `initialize` phase 2, ACMD (R133). -/
  | appInit
  /-- REGREAD of `capacity` (R140). -/
  | readCsd
  /-- REGREAD of `readRegister` (R145). -/
  | readReg
  /-- `readBlock` (R148). -/
  | readBlk
  /-- `writeBlock` (R152). -/
  | writeBlk
  deriving DecidableEq, Repr

/-- The steps that raise the error latch (R161). -/
inductive LatchSite where
  | resetFailed
  | readyFailed
  | readRejected
  | writeRejected
  | tokenTimeout (x : Xfer)
  | dataRejected
  | busyTimeout
  deriving DecidableEq, Repr

/-- The sequencer position (R13): the event that comes next, with the call chain that awaits it. -/
inductive Pos where
  /-- `busy = 0`: no operation in flight. -/
  | idle
  /-- `initialize`: `t0 <- Tick.now()`. -/
  | initTick
  /-- `initialize`: `T.slowClock()`. -/
  | initSlow
  /-- `initialize`: the first `T.desel()`. -/
  | initDesel
  /-- `initialize`: `left` priming bytes still to send. -/
  | initPrime (left : Nat)
  /-- `initialize`: `T.sel()` after the priming. -/
  | initSel
  /-- `initialize` phase 1: the time test after an unwanted response. -/
  | initResetTick
  /-- `initialize` phase 2: the time test after an unwanted response. -/
  | initReadyTick
  /-- `initialize`: the last `T.desel()`. -/
  | initDone
  /-- CARDCMD: `T.sel()`. -/
  | cmdSel (call : Call)
  /-- CARDCMD: the bus-idle wait. -/
  | cmdIdle (call : Call)
  /-- CARDCMD: the six sends of the frame. -/
  | cmdFrame (call : Call)
  /-- CARDCMD: the frame's bytes still to send, after its first ones (R191: "mid-frame"). -/
  | cmdSend (call : Call) (left : List Byte)
  /-- CARDCMD: the response poll. -/
  | cmdPoll (call : Call)
  /-- `raise Latch` at a site, then what that site does next. -/
  | latch (site : LatchSite)
  /-- REGREAD: `T.desel()` after a rejected command; the call is `readCsd`'s or `readReg`'s transfer. -/
  | regDesel (x : Xfer)
  /-- WAITTOKEN: `t0 <- Tick.now()`. -/
  | tokStart (w : Wait)
  /-- WAITTOKEN: `b <- T.recv()`. -/
  | tokRecv (w : Wait)
  /-- WAITTOKEN: the time test after a mismatch. -/
  | tokTick (w : Wait)
  /-- XFER: receive payload byte `idx`. -/
  | payload (x : Xfer)
  /-- XFER: write the received byte to cell `idx` of the destination. -/
  | store (x : Xfer) (b : Byte)
  /-- XFER: `left` trailer bytes still to discard. -/
  | trailer (x : Xfer) (left : Nat)
  /-- XFER: the last `T.desel()`. -/
  | xferDesel (x : Xfer)
  /-- `capacity`: read the next cell of `CSDR`, from 5 up; `got` are the bytes read so far. The sixth read completes. -/
  | capCompute (got : List Byte)
  /-- `writeBlock`: send the start token. -/
  | wrToken
  /-- `writeBlock`: read `BUF[idx]`. -/
  | wrData
  /-- `writeBlock`: send the byte read. -/
  | wrSend (b : Byte)
  /-- `writeBlock`: `left` fillers still to send. -/
  | wrFill (left : Nat)
  /-- `writeBlock`: receive the data-response byte. -/
  | wrAck
  /-- `writeBlock`: the last `T.desel()`. -/
  | wrDesel
  deriving DecidableEq, Repr

/-- What happens on the ports, one constructor per kind of event (R8, R9, R20), and the accesses to the two memories
(R51: "transport events, tick reads and buffer accesses"). -/
inductive Event where
  | sel
  | desel
  | slowClock
  | send (b : Byte)
  | recv (b : Byte)
  | tick (t : Nat)
  | memRead (d : Dest) (i : Nat) (b : Byte)
  | memWrite (d : Dest) (i : Nat) (b : Byte)
  deriving DecidableEq, Repr

/-- What the host can do, one move a step (R24, R26, R190; log 10). -/
inductive HostMove where
  /-- Present a request now, whether SDCORE is busy or not. -/
  | request (w : ReqWord)
  /-- Do nothing until `busy = 0`. -/
  | await
  /-- Let the sequencer take one event (R51), so that the next move lands right after it (R191). -/
  | pass
  /-- Write a cell of `BUF`. -/
  | writeBuf (i : Nat) (b : Byte)
  /-- Read a cell of `BUF`. -/
  | readBuf (i : Nat)
  /-- Assert SDCORE's reset input. -/
  | reset
  deriving DecidableEq, Repr

/-- A byte memory: its written cells, addresses strictly rising. A cell not listed holds no value (R28). -/
abbrev Memory := List Host.Cell

/-- Why the machine stops. -/
inductive Fault where
  /-- Raised where a cell of `BUF` or `CSDR` is read that nothing has written since reset: "reading it is a fault of the
  model" (R28, R209, U12). Safe: the hardware goes on with whatever the cell holds. -/
  | unwrittenCell (d : Dest) (i : Nat)
  /-- Raised where the host accesses `BUF` while `busy = 1`: "`fault` of the model (a race)" (R26, U9). Safe. -/
  | bufRace (i : Nat)
  /-- Raised where an index lies outside its memory: `BUF` has `BLOCK_LEN` cells, `CSDR` `REG_LEN` (R40, R42). No index
  of an operation does in a well-formed configuration; a host's may (log 20). Safe. -/
  | noSuchCell (d : Dest) (i : Nat)
  deriving DecidableEq, Repr

/-- Why an instruction has no outcome. -/
inductive Refusal where
  /-- Raised by an arm of `exec` whose instruction has no meaning yet; no arm does. Safe. -/
  | notModelled (mnemonic : String)
  deriving DecidableEq, Repr

/-- The machine (R10), the environment's queued answers, and the history. -/
@[ext]
structure State where
  /-- The build-time parameters (R18): constants, written by no step (log 1). -/
  cfg : Config
  /-- R15. -/
  errorCode : Byte
  /-- R16. -/
  errorData : Byte
  /-- The chip-select shadow (R22). -/
  cs : Bool
  /-- R14. -/
  busy : Bool
  /-- The last completed operation's success (R14). -/
  ok : Bool
  /-- R17. -/
  capacityOut : Word
  /-- `BUF` (spec/20_memory.md R40). -/
  buf : Memory
  /-- `CSDR` (R19). -/
  csdr : Memory
  /-- The sampled operation (R25). -/
  opReg : BitVec 3
  /-- The sampled argument (R25). -/
  argReg : Word
  /-- The last response byte (R12). -/
  r1 : Byte
  /-- The data-response byte of a write (R12). -/
  ack : Byte
  /-- The captured start tick, below `2^TICK_W` (R12). -/
  t0 : Nat
  /-- Response-poll receives so far (R12). -/
  polls : Nat
  /-- The payload byte counter (R12). -/
  idx : Nat
  /-- The result of the last WAITTOKEN (R12). -/
  tokOk : Bool
  /-- The sequencer position (R13). -/
  pos : Pos
  /-- SDCORE has asked the transport for its slow clock (R27 b, R206). -/
  clockSlow : Bool
  /-- The answers of coming `T.recv()`s, oldest first. -/
  rx : List Byte
  /-- The answers of coming `Tick.now()`s, oldest first. -/
  ticks : List Nat
  /-- The host's coming moves. -/
  host : List HostMove
  /-- Every event so far, newest first (R51). -/
  hist : List Event
  /-- Free values drawn so far. -/
  freeCount : Nat
  deriving DecidableEq, Repr

/-- SDCORE of configuration `c` right after reset (R28): the table's values, "one `T.desel()`", `BUF` and `CSDR` without
values; the operand and working registers, which the table leaves unspecified, at 0 (log 8). -/
def State.resetOf (c : Config) : State where
  cfg := c
  errorCode := 0#8
  errorData := 0#8
  cs := false
  busy := false
  ok := false
  capacityOut := 0#32
  buf := []
  csdr := []
  opReg := 0#3
  argReg := 0#32
  r1 := 0#8
  ack := 0#8
  t0 := 0
  polls := 0
  idx := 0
  tokOk := false
  pos := .idle
  clockSlow := false
  rx := []
  ticks := []
  host := []
  hist := [.desel]
  freeCount := 0

/-- The machine right after reset. -/
def State.reset : State := State.resetOf Config.atReset

end Sys2Proof.Machine
end

