-- ==== Sys2Proof/Machine/Operands.lean ====
section
/-! DEFINITION. The values SDCORE computes (spec/43_block_api.md R155): command operands, frame bytes, transfer
parameters, elapsed time, the capacity formula, error codes. -/

namespace Sys2Proof.Machine

/-! ## Commands -/

/-- The card byte address, `blockNumber << 9` in 32 bits: bits above bit 31 are lost (R47, R149). -/
def blockAddr (c : Config) (blockNumber : Word) : Word := blockNumber <<< c.blockShift

/-- The command index of a call of CARDCMD (R72 to R79, R145). -/
def callCmd (c : Config) (argReg : Word) : Call → CmdIndex
  | .reset => c.cmdReset
  | .legacyInit => c.cmdLegacyInit
  | .appPrefix => c.cmdAppPrefix
  | .appInit => c.acmdInit
  | .readCsd => c.cmdReadCsd
  | .readReg => argCmd argReg
  | .readBlk => c.cmdReadBlock
  | .writeBlk => c.cmdWriteBlock

/-- The argument of a call of CARDCMD: 0, or the byte address of the two block commands (R65). -/
def callArg (c : Config) (argReg : Word) : Call → Word
  | .reset | .legacyInit | .appPrefix | .appInit | .readCsd | .readReg => 0#32
  | .readBlk | .writeBlk => blockAddr c argReg

/-- The frame of a call of CARDCMD (R100). -/
def callFrame (c : Config) (argReg : Word) (call : Call) : FrameWord :=
  frameWord c (callCmd c argReg call) (callArg c argReg call)

/-- The bytes of a frame in the order they are sent (R62): the command byte, the argument most significant byte first
(R44), the checksum byte. -/
def frameBytes (w : FrameWord) : List Byte :=
  [w.extractLsb' 40 8, w.extractLsb' 32 8, w.extractLsb' 24 8, w.extractLsb' 16 8, w.extractLsb' 8 8, w.extractLsb' 0 8]

/-! ## Transfers and waits -/

/-- The payload length of a transfer (R120). -/
def xferLen (c : Config) : Xfer → Nat
  | .capacity | .register => c.regLen
  | .block => c.blockLen

/-- The destination of a transfer (R115, R120). -/
def xferDest : Xfer → Dest
  | .capacity => .csdr
  | .register | .block => .buf

/-- The number of cells of a memory: `BUF` has `BLOCK_LEN`, `CSDR` one register's bytes (R40, R42). -/
def destSize (c : Config) : Dest → Nat
  | .buf => c.blockLen
  | .csdr => c.regLen

/-- The byte a WAITTOKEN waits for (R91). -/
def waitToken (c : Config) : Wait → Byte
  | .startToken _ => c.startToken
  | .writeBusy => c.idleByte

/-- The timeout of a WAITTOKEN (R91). -/
def waitTimeout (c : Config) : Wait → Nat
  | .startToken _ => c.readTimeoutMs
  | .writeBusy => c.writeTimeoutMs

/-- `(now - t0) mod 2^TICK_W` (R92). -/
def elapsed (c : Config) (now t0 : Nat) : Nat := (now + (2 ^ c.tickW - t0 % 2 ^ c.tickW)) % 2 ^ c.tickW

/-! ## The capacity formula -/

/-- `read_bl_len = CSDR[5][3:0]` (R70). -/
def csdReadBlLen (b5 : Byte) : BitVec 4 := b5.extractLsb' 0 4

/-- `c_size = CSDR[6][1:0] ++ CSDR[7] ++ CSDR[8][7:6]` (R70). -/
def csdCSize (b6 b7 b8 : Byte) : BitVec 12 := b6.extractLsb' 0 2 ++ b7 ++ b8.extractLsb' 6 2

/-- `c_size_mult = CSDR[9][1:0] ++ CSDR[10][7]` (R70). -/
def csdCSizeMult (b9 b10 : Byte) : BitVec 3 := b9.extractLsb' 0 2 ++ b10.extractLsb' 7 1

/-- `(c_size + 1) << (c_size_mult + read_bl_len - 7)` in 32 bits (R141); no value where the shift would be negative
(R142). -/
def capacityValue (readBlLen : BitVec 4) (cSize : BitVec 12) (cSizeMult : BitVec 3) : Option Word :=
  if cSizeMult.toNat + readBlLen.toNat < 7 then none
  else some ((cSize.setWidth 32 + 1#32) <<< (cSizeMult.toNat + readBlLen.toNat - 7))

/-- The formula over the six bytes `CSDR[5]` to `CSDR[10]`, in order. -/
def fieldsCapacity (got : List Byte) : Option Word :=
  capacityValue (csdReadBlLen (got.getD 0 0#8)) (csdCSize (got.getD 1 0#8) (got.getD 2 0#8) (got.getD 3 0#8))
    (csdCSizeMult (got.getD 4 0#8) (got.getD 5 0#8))

/-! ## The error table -/

/-- The number of a named code: the list order, from 1 (R161; the numbers are the spec's own, D4). -/
def errorNumber : ErrorName → Byte
  | .resetNotAcknowledged => 1#8
  | .readyFailedAcmd => 2#8
  | .readyFailedLegacy => 3#8
  | .writeCommandRejected => 4#8
  | .readCommandRejected => 5#8
  | .readStartTokenTimeout => 6#8
  | .writeDataRejected => 7#8
  | .writeBusyTimeout => 8#8
  | .writeToBlockZero => 9#8
  | .writeStatusCheckFailed => 10#8

/-- The error a site latches (R161); the ready handshake's by the strategy built in (R133). -/
def siteError (c : Config) : LatchSite → ErrorName
  | .resetFailed => .resetNotAcknowledged
  | .readyFailed => match c.initStrategy with
    | .acmd => .readyFailedAcmd
    | .legacy => .readyFailedLegacy
  | .readRejected => .readCommandRejected
  | .writeRejected => .writeCommandRejected
  | .tokenTimeout _ => .readStartTokenTimeout
  | .dataRejected => .writeDataRejected
  | .busyTimeout => .writeBusyTimeout

/-- The diagnostic byte a site records (R161, R162): the response, the raw data response, or 0 for a timeout. -/
def siteData (s : State) : LatchSite → Byte
  | .resetFailed | .readyFailed | .readRejected | .writeRejected => s.r1
  | .dataRejected => s.ack
  | .tokenTimeout _ | .busyTimeout => 0#8

end Sys2Proof.Machine
end

