-- ==== Sys2Proof/Machine/Flags.lean ====
section
/-! DEFINITION. The conditions SDCORE decides on (spec/43_block_api.md R155 a, f, g) and the flags it writes (R14). There
are no arithmetic condition codes. -/

namespace Sys2Proof.Machine

/-- Bit 7 set: not yet a response (R67, R102). -/
def notYet (b : Byte) : Bool := b.getLsbD 7

/-- The response poll ends: bit 7 is clear, or the count has run out (R102). -/
def pollEnds (c : Config) (polls : Nat) (b : Byte) : Bool := !notYet b || polls == c.cmdRespPolls

/-- `(ack & DATA_RES_MASK) = DATA_RES_ACCEPTED` (R69). -/
def dataAccepted (c : Config) (ack : Byte) : Bool := ack &&& c.dataResMask == c.dataResAccepted

/-- The elapsed time exceeds the timeout, strictly (R92). -/
def expired (c : Config) (timeout now t0 : Nat) : Bool := decide (timeout < elapsed c now t0)

/-- A move of the host waits: it may land after the very next event (R191), so that event is a step of its own (log 11,
log 14). -/
def moveWaits (s : State) : Bool := !s.host.isEmpty

/-- The completion of an operation with its return value: `ok <- v`, `busy <- 0`, the sequencer idle (R130). -/
def complete (v : Bool) (s : State) : State := { s with ok := v, busy := false, pos := .idle }

/-- `tokOk <- v` (R12). -/
def setTokOk (v : Bool) (s : State) : State := { s with tokOk := v }

/-- The sequencer goes on at `p`. -/
def goto (p : Pos) (s : State) : State := { s with pos := p }

end Sys2Proof.Machine
end

