-- ==== Sys2Proof/Machine/Ops.lean ====
section
/-! DEFINITION. The operations every rule's pseudocode is written in (spec/00_scope.md R8): transport events, tick reads,
accesses to the byte memories, and the error latch. -/

namespace Sys2Proof.Machine

/-- A step's answer. -/
abbrev Result := Host.Outcome State Fault Refusal

/-! ## Byte memories -/

/-- What a cell that nothing has written holds: no value (R28). -/
def unlistedCell : Option Byte := none

/-- The value of a cell. -/
def readCell : Memory → Nat → Option Byte
  | [], _ => unlistedCell
  | c :: m, a => if c.1 = a then some c.2 else readCell m a

/-- Write a cell, keeping the addresses strictly rising. -/
def writeCell : Memory → Nat → Byte → Memory
  | [], a, b => [(a, b)]
  | c :: m, a, b =>
    if a < c.1 then (a, b) :: c :: m
    else if a = c.1 then (a, b) :: m
    else c :: writeCell m a b

/-- The canonical form: addresses strictly rising. (No value is what an unlisted cell reads as, so no entry can equal
it.) -/
abbrev Memory.wf (m : Memory) : Prop := m.Pairwise (fun a b => a.1 < b.1)

/-- The memory of a destination. -/
def memOf (s : State) : Dest → Memory
  | .buf => s.buf
  | .csdr => s.csdr

/-- The state with another memory at a destination. -/
def setMem (d : Dest) (m : Memory) (s : State) : State :=
  match d with
  | .buf => { s with buf := m }
  | .csdr => { s with csdr := m }

/-! ## Events -/

/-- Record an event in the single history (R51). -/
def log (e : Event) (s : State) : State := { s with hist := e :: s.hist }

/-- `T.sel()` (R22). -/
def tSel (s : State) : State := log .sel { s with cs := true }

/-- `T.desel()` (R22). -/
def tDesel (s : State) : State := log .desel { s with cs := false }

/-- `T.slowClock()` (R20, R206). -/
def tSlowClock (s : State) : State := log .slowClock { s with clockSlow := true }

/-- `T.send(b)` (R20). -/
def tSend (b : Byte) (s : State) : State := log (.send b) s

/-- The environment's answer to `T.recv()`: the next queued byte, or a free value (R21; log 5). -/
def takeByte (s : State) : Byte × State :=
  match s.rx with
  | b :: rest => (b, { s with rx := rest })
  | [] => (Config.freeRecv s.freeCount, { s with freeCount := s.freeCount + 1 })

/-- The environment's answer to `Tick.now()`: the next queued tick, or a free value, in `TICK_W` bits (R23, R181). -/
def takeTick (s : State) : Nat × State :=
  match s.ticks with
  | t :: rest => (t % 2 ^ s.cfg.tickW, { s with ticks := rest })
  | [] => (Config.freeTick s.freeCount % 2 ^ s.cfg.tickW, { s with freeCount := s.freeCount + 1 })

/-- `MemWrite(i, 1, b)`, or the same to `CSDR` (R8, R41). -/
def storeByte (d : Dest) (i : Nat) (b : Byte) (s : State) (k : State → Result) : Result :=
  if i < destSize s.cfg d then k (log (.memWrite d i b) (setMem d (writeCell (memOf s d) i b) s))
  else .fault (.noSuchCell d i)

/-- `MemRead(i, 1)`, or the same of `CSDR` (R8, R41); reading a cell that holds no value is a fault (R28). -/
def loadByte (d : Dest) (i : Nat) (s : State) (k : Byte → State → Result) : Result :=
  if i < destSize s.cfg d then
    match readCell (memOf s d) i with
    | some b => k b (log (.memRead d i b) s)
    | none => .fault (.unwrittenCell d i)
  else .fault (.noSuchCell d i)

/-! ## The error latch -/

/-- `raise Latch(code, data)`: "It does three things in order and nothing else" (R163). It ends no operation by itself;
there is no return from it, since it saves nothing (R165). -/
def raiseLatch (e : ErrorName) (data : Byte) (s : State) : State :=
  tDesel { s with errorCode := errorNumber e, errorData := data }

/-- The clear at the start of `initialize`, the only one (R131, R165). -/
def clearError (s : State) : State := { s with errorCode := 0#8, errorData := 0#8 }

end Sys2Proof.Machine
end

