-- ==== Sys2Proof/Machine/Sequencer.lean ====
section
/-! DEFINITION. The sequencer: the pseudocode of spec/40_token_wait.md to 43_block_api.md, one event at a time. Each
position of `Pos` is one event of a rule's pseudocode; what a position does is that event and the tests up to the next
one. Only the sends of a frame share a step, and only while no move of the host waits (log 14). -/

namespace Sys2Proof.Machine

/-! ## Where the sequencer waits for an answer -/

/-- The next event is a `T.recv()`. -/
def awaitsByte : Pos → Bool
  | .cmdIdle _ | .cmdPoll _ | .tokRecv _ | .payload _ | .trailer _ _ | .wrAck => true
  | .idle | .initTick | .initSlow | .initDesel | .initPrime _ | .initSel | .initResetTick | .initReadyTick | .initDone
  | .cmdSel _ | .cmdFrame _ | .cmdSend _ _ | .latch _ | .regDesel _ | .tokStart _ | .tokTick _ | .store _ _
  | .xferDesel _ | .capCompute _ | .wrToken | .wrData | .wrSend _ | .wrFill _ | .wrDesel => false

/-- The next event is a `Tick.now()`. -/
def awaitsTick : Pos → Bool
  | .initTick | .initResetTick | .initReadyTick | .tokStart _ | .tokTick _ => true
  | .idle | .initSlow | .initDesel | .initPrime _ | .initSel | .initDone | .cmdSel _ | .cmdIdle _ | .cmdFrame _
  | .cmdSend _ _ | .cmdPoll _ | .latch _ | .regDesel _ | .tokRecv _ | .payload _ | .store _ _ | .trailer _ _
  | .xferDesel _ | .capCompute _ | .wrToken | .wrData | .wrSend _ | .wrFill _ | .wrAck | .wrDesel => false

/-! ## Entering the parts of an operation -/

/-- Phase 2 of `initialize` issues the strategy's command, the prefix first for ACMD (R133). -/
def startReady (s : State) : State :=
  match s.cfg.initStrategy with
  | .acmd => goto (.cmdSel .appPrefix) s
  | .legacy => goto (.cmdSel .legacyInit) s

/-- `left` priming bytes to go, then `T.sel()` (R131). -/
def toPrime (left : Nat) (s : State) : State := if left = 0 then goto .initSel s else goto (.initPrime left) s

/-- `left` trailer bytes to go, then the last `T.desel()` (R120). -/
def toTrailer (x : Xfer) (left : Nat) (s : State) : State :=
  if left = 0 then goto (.xferDesel x) s else goto (.trailer x left) s

/-- The streaming loop: another payload byte, or the trailer (R120). -/
def toPayload (x : Xfer) (s : State) : State :=
  if s.idx < xferLen s.cfg x then goto (.payload x) s else toTrailer x s.cfg.trailerLen s

/-- The streaming loop from its start. -/
def startPayload (x : Xfer) (s : State) : State := toPayload x { s with idx := 0 }

/-- `left` fillers to go, then the data response (R152). -/
def toFill (left : Nat) (s : State) : State := if left = 0 then goto .wrAck s else goto (.wrFill left) s

/-- The write loop: another byte of `BUF`, or the fillers (R152). -/
def toWrData (s : State) : State :=
  if s.idx < s.cfg.blockLen then goto .wrData s else toFill s.cfg.trailerLen s

/-- The write loop from its start. -/
def startWrData (s : State) : State := toWrData { s with idx := 0 }

/-- What a transfer's caller does with a failed transfer: `return false`, `capacity` with a count of 0 (R140, R145,
R148). -/
def xferFailed (x : Xfer) (s : State) : State :=
  match x with
  | .capacity => complete false { s with capacityOut := 0#32 }
  | .register | .block => complete false s

/-- What a transfer's caller does with a finished transfer: `return true`, `capacity` after its formula (R140, R145,
R148). -/
def xferSucceeded (x : Xfer) (s : State) : State :=
  match x with
  | .capacity => goto (.capCompute []) s
  | .register | .block => complete true s

/-- The end of a WAITTOKEN: `tokOk` is its result, and the caller goes on (R91). -/
def waitDone (w : Wait) (v : Bool) (s : State) : State :=
  match w, v with
  | .startToken x, true => startPayload x (setTokOk true s)
  | .startToken x, false => goto (.latch (.tokenTimeout x)) (setTokOk false s)
  | .writeBusy, true => goto .wrDesel (setTokOk true s)
  | .writeBusy, false => goto (.latch .busyTimeout) (setTokOk false s)

/-- CARDCMD has returned `r1`: its caller's comparison (R132, R133, R104, R115, R148, R152). -/
def resume (call : Call) (s : State) : State :=
  match call with
  | .reset => if s.r1 = s.cfg.r1Idle then startReady s else goto .initResetTick s
  | .appPrefix => goto (.cmdSel .appInit) s
  | .legacyInit => if s.r1 = s.cfg.r1Ready then goto .initDone s else goto .initReadyTick s
  | .appInit => if s.r1 = s.cfg.r1Ready then goto .initDone s else goto .initReadyTick s
  | .readCsd => if s.r1 = s.cfg.r1Ready then goto (.tokStart (.startToken .capacity)) s else goto (.regDesel .capacity) s
  | .readReg => if s.r1 = s.cfg.r1Ready then goto (.tokStart (.startToken .register)) s else goto (.regDesel .register) s
  | .readBlk => if s.r1 = s.cfg.r1Ready then goto (.tokStart (.startToken .block)) s else goto (.latch .readRejected) s
  | .writeBlk => if s.r1 = s.cfg.r1Ready then goto .wrToken s else goto (.latch .writeRejected) s

/-- After `raise Latch` at a site (R161, last column). -/
def afterLatch (site : LatchSite) (s : State) : State :=
  match site with
  | .tokenTimeout x => if s.cfg.rdTimeoutAbort then xferFailed x s else startPayload x s
  | .busyTimeout => goto .wrDesel s
  | .resetFailed | .readyFailed | .readRejected | .writeRejected | .dataRejected => complete false s

/-- The `raise Latch` of a site: the latch, then what follows it. -/
def latchAt (site : LatchSite) (s : State) : State :=
  afterLatch site (raiseLatch (siteError s.cfg site) (siteData s site) s)

/-! ## One event -/

/-- `T.recv()` has returned `b` (R81: the comparison in force at the position decides). Nothing is received at a position
that receives nothing. -/
def onByte (b : Byte) (s : State) : Result :=
  match s.pos with
  | .cmdIdle call => .next (if b = s.cfg.idleByte then goto (.cmdFrame call) (log (.recv b) s) else log (.recv b) s)
  | .cmdPoll call =>
    let s1 := log (.recv b) { s with r1 := b, polls := s.polls + 1 }
    .next (if pollEnds s.cfg (s.polls + 1) b then resume call s1 else s1)
  | .tokRecv w =>
    .next (if b = waitToken s.cfg w then waitDone w true (log (.recv b) s) else goto (.tokTick w) (log (.recv b) s))
  | .payload x => .next (goto (.store x b) (log (.recv b) s))
  | .trailer x left => .next (toTrailer x (left - 1) (log (.recv b) s))
  | .wrAck =>
    let s1 := log (.recv b) { s with ack := b }
    .next (if dataAccepted s.cfg b then goto (.tokStart .writeBusy) s1 else goto (.latch .dataRejected) s1)
  | .idle | .initTick | .initSlow | .initDesel | .initPrime _ | .initSel | .initResetTick | .initReadyTick | .initDone
  | .cmdSel _ | .cmdFrame _ | .cmdSend _ _ | .latch _ | .regDesel _ | .tokStart _ | .tokTick _ | .store _ _
  | .xferDesel _ | .capCompute _ | .wrToken | .wrData | .wrSend _ | .wrFill _ | .wrDesel => .next s

/-- `Tick.now()` has returned `t` (R90, R132, R133). -/
def onTick (t : Nat) (s : State) : State :=
  match s.pos with
  | .initTick => goto .initSlow (log (.tick t) { s with t0 := t })
  | .initResetTick =>
    if expired s.cfg s.cfg.initTimeoutMs t s.t0 then goto (.latch .resetFailed) (log (.tick t) s)
    else goto (.cmdSel .reset) (log (.tick t) s)
  | .initReadyTick =>
    if expired s.cfg s.cfg.initTimeoutMs t s.t0 then goto (.latch .readyFailed) (log (.tick t) s)
    else startReady (log (.tick t) s)
  | .tokStart w => goto (.tokRecv w) (log (.tick t) { s with t0 := t })
  | .tokTick w =>
    if expired s.cfg (waitTimeout s.cfg w) t s.t0 then waitDone w false (log (.tick t) s)
    else goto (.tokRecv w) (log (.tick t) s)
  | .idle | .initSlow | .initDesel | .initPrime _ | .initSel | .initDone | .cmdSel _ | .cmdIdle _ | .cmdFrame _
  | .cmdSend _ _ | .cmdPoll _ | .latch _ | .regDesel _ | .tokRecv _ | .payload _ | .store _ _ | .trailer _ _
  | .xferDesel _ | .capCompute _ | .wrToken | .wrData | .wrSend _ | .wrFill _ | .wrAck | .wrDesel => s

/-- The sends of the bytes of a frame that are left, then the response poll (R100). While a move of the host waits, one
send is one step, and the move may land between two of them ("mid-frame", R191). -/
def sendFrame (call : Call) : List Byte → State → State
  | [], s => goto (.cmdPoll call) { s with polls := 0 }
  | b :: left, s =>
    if moveWaits s && !left.isEmpty then goto (.cmdSend call left) (tSend b s) else sendFrame call left (tSend b s)

/-- CARDCMD's six sends (R100). -/
def transmit (w : FrameWord) (call : Call) (s : State) : State :=
  sendFrame call ((frameBytes w).take s.cfg.frameLen) s

/-- The completion of `capacity` with the count of the bytes read, `CSDR[5]` to `CSDR[10]` (R140 to R142). -/
def capacityDone (got : List Byte) (s : State) : State :=
  match fieldsCapacity got with
  | some n => complete true { s with capacityOut := n }
  | none => complete true { s with capacityOut := Config.freeCapacity s.freeCount, freeCount := s.freeCount + 1 }

/-- One more byte of `CSDR` read for the formula, which needs six (R43, R140). -/
def toCompute (got : List Byte) (s : State) : State :=
  if got.length < 6 then goto (.capCompute got) s else capacityDone got s

/-- An event that waits for no answer: a send, a select, a deselect, the clock request, the latch, an access to a byte
memory. -/
def onSilent (s : State) : Result :=
  match s.pos with
  | .initSlow => .next (goto .initDesel (tSlowClock s))
  | .initDesel => .next (toPrime s.cfg.primeBytes (tDesel s))
  | .initPrime left => .next (toPrime (left - 1) (tSend s.cfg.fillByte s))
  | .initSel => .next (goto (.cmdSel .reset) (tSel s))
  | .initDone => .next (complete true (tDesel s))
  | .cmdSel call => .next (goto (.cmdIdle call) (tSel s))
  | .cmdFrame call => .next (transmit (callFrame s.cfg s.argReg call) call s)
  | .cmdSend call left => .next (sendFrame call left s)
  | .latch site => .next (latchAt site s)
  | .regDesel x => .next (xferFailed x (tDesel s))
  | .store x b =>
    storeByte (xferDest x) s.idx b s fun s1 => .next (toPayload x { s1 with idx := s.idx + 1 })
  | .xferDesel x => .next (xferSucceeded x (tDesel s))
  | .capCompute got => loadByte .csdr (5 + got.length) s fun b s1 => .next (toCompute (got ++ [b]) s1)
  | .wrToken => .next (startWrData (tSend s.cfg.startToken s))
  | .wrData => loadByte .buf s.idx s fun b s1 => .next (goto (.wrSend b) s1)
  | .wrSend b => .next (toWrData { tSend b s with idx := s.idx + 1 })
  | .wrFill left => .next (toFill (left - 1) (tSend s.cfg.fillByte s))
  | .wrDesel => .next (complete true (tDesel s))
  | .idle | .initTick | .initResetTick | .initReadyTick | .cmdIdle _ | .cmdPoll _ | .tokStart _ | .tokRecv _
  | .tokTick _ | .payload _ | .trailer _ _ | .wrAck => .next s

/-- The sequencer's next event, with the environment's answer where the event has one. Nothing happens when idle. -/
def seqStep (s : State) : Result :=
  if awaitsByte s.pos then onByte (takeByte s).1 (takeByte s).2
  else if awaitsTick s.pos then .next (onTick (takeTick s).1 (takeTick s).2)
  else onSilent s

/-! ## An operation, as far as the queued answers carry it -/

/-- The next event waits for an answer that is not queued. -/
def starved (s : State) : Bool := (awaitsByte s.pos && s.rx.isEmpty) || (awaitsTick s.pos && s.ticks.isEmpty)

/-- The operation has completed, or waits for an answer that is not queued. -/
def settled (s : State) : Bool := s.pos == .idle || starved s

/-- At most `n` events, stopping where the machine has settled. -/
def settle : Nat → State → Result
  | 0, s => .next s
  | n + 1, s =>
    if settled s then .next s
    else match seqStep s with
      | .next s' => settle n s'
      | .fault f => .fault f
      | .refused r => .refused r

/-- More events than an operation can take on the queued answers: each frame takes at least two of them, a payload byte
one, and the only other events come at most once per priming byte, filler or part of an operation, twice per byte
written. -/
def eventBound (s : State) : Nat :=
  4 * (s.rx.length + s.ticks.length) + s.cfg.primeBytes + 2 * s.cfg.blockLen + s.cfg.trailerLen + 24

/-- The operation in flight runs until it completes or waits for an answer that is not queued (R24: "Operations are
blocking and run to completion"; log 11). -/
def runOperation (s : State) : Result := settle (eventBound s) s

end Sys2Proof.Machine
end

