-- ==== Sys2Proof/Machine/BusBytes.lean ====
section
/-! DEFINITION. The byte units of the table (spec/30_encoding.md R67 to R71): received, or sent, at the sequencer
position in force, whose comparison gives the byte its effect (R81). -/

namespace Sys2Proof.Machine

/-- The filler is what the position sends next. -/
def sendsFill : Pos → Bool
  | .initPrime _ | .wrFill _ => true
  | .idle | .initTick | .initSlow | .initDesel | .initSel | .initResetTick | .initReadyTick | .initDone | .cmdSel _
  | .cmdIdle _ | .cmdFrame _ | .cmdSend _ _ | .cmdPoll _ | .latch _ | .regDesel _ | .tokStart _ | .tokRecv _ | .tokTick _
  | .payload _ | .store _ _ | .trailer _ _ | .xferDesel _ | .capCompute _ | .wrToken | .wrData | .wrSend _
  | .wrAck | .wrDesel => false

/-- R1_NOT_YET: bit 7 set (R67), in the poll one more receive (R102). -/
def execR1NotYet (low : BitVec 7) (s : State) : Result := onByte (1#1 ++ low) s

/-- R1_READY: the ready-state response (R67). -/
def execR1Ready (s : State) : Result := onByte s.cfg.r1Ready s

/-- R1_IDLE: the idle-state response (R67). -/
def execR1Idle (s : State) : Result := onByte s.cfg.r1Idle s

/-- IDLE_BYTE: the bus is idle (R68). -/
def execIdleByte (s : State) : Result := onByte s.cfg.idleByte s

/-- START_TOKEN: sent before a write payload, otherwise received (R68, R153 a). -/
def execStartToken (s : State) : Result := if s.pos = .wrToken then onSilent s else onByte s.cfg.startToken s

/-- DATA_RES_ACCEPTED: a data response whose masked bits are the accepted code (R69). -/
def execDataResAccepted (b : Byte) (s : State) : Result := onByte b s

/-- FILL_BYTE: the filler SDCORE sends as a priming byte or a write trailer (R71, R131); elsewhere none is due, and nothing
is sent (log 12). -/
def execFillByte (s : State) : Result := if sendsFill s.pos then onSilent s else .next s

end Sys2Proof.Machine
end

