-- ==== Sys2Proof/Machine/CardFrames.lean ====
section
/-! DEFINITION. The command frames (spec/30_encoding.md R72 to R80, R146) as CARDCMD transmits them
(41_command_framer.md R100): at the position after the bus-idle wait the frame is sent and the response poll begins.
While a move of the host waits, the row sends its first byte and the others follow one a step (log 14). -/

namespace Sys2Proof.Machine

/-- The transmission of a frame. SDCORE emits a frame at that position only (R72 to R79 "Issued only by"), so elsewhere
nothing is sent (log 12). -/
def transmitHere (w : FrameWord) (s : State) : Result :=
  match s.pos with
  | .cmdFrame call => .next (transmit w call s)
  | .idle | .initTick | .initSlow | .initDesel | .initPrime _ | .initSel | .initResetTick | .initReadyTick | .initDone
  | .cmdSel _ | .cmdIdle _ | .cmdSend _ _ | .cmdPoll _ | .latch _ | .regDesel _ | .tokStart _ | .tokRecv _ | .tokTick _
  | .payload _ | .store _ _ | .trailer _ _ | .xferDesel _ | .capCompute _ | .wrToken | .wrData | .wrSend _
  | .wrFill _ | .wrAck | .wrDesel => .next s

/-- CMD0, the reset command (R72). -/
def execCmd0 (s : State) : Result := transmitHere (frameWord s.cfg s.cfg.cmdReset 0#32) s

/-- CMD1, the legacy initialization command (R73). -/
def execCmd1 (s : State) : Result := transmitHere (frameWord s.cfg s.cfg.cmdLegacyInit 0#32) s

/-- CMD9, the card-specific-data read (R74). -/
def execCmd9 (s : State) : Result := transmitHere (frameWord s.cfg s.cfg.cmdReadCsd 0#32) s

/-- CMD10, the card-identification read (R75). -/
def execCmd10 (s : State) : Result := transmitHere (frameWord s.cfg s.cfg.cmdReadCid 0#32) s

/-- CMD17, the single-block read (R76). -/
def execCmd17 (arg : Word) (s : State) : Result := transmitHere (frameWord s.cfg s.cfg.cmdReadBlock arg) s

/-- CMD24, the single-block write (R77). -/
def execCmd24 (arg : Word) (s : State) : Result := transmitHere (frameWord s.cfg s.cfg.cmdWriteBlock arg) s

/-- CMD55, the application-command prefix (R78). -/
def execCmd55 (s : State) : Result := transmitHere (frameWord s.cfg s.cfg.cmdAppPrefix 0#32) s

/-- ACMD41, the application initialization command (R79). -/
def execAcmd41 (s : State) : Result := transmitHere (frameWord s.cfg s.cfg.acmdInit 0#32) s

/-- The frame of any other index, argument 0 (R146). -/
def execCmdN (cmd : CmdIndex) (s : State) : Result := transmitHere (frameWord s.cfg cmd 0#32) s

end Sys2Proof.Machine
end

