-- ==== Sys2Proof/Machine/HostRequests.lean ====
section
/-! DEFINITION. The host's requests (spec/43_block_api.md R130 to R154, 30_encoding.md R60, R61) and its other moves
(10_state.md R26, 70_reset_and_hazards.md R190, R191). -/

namespace Sys2Proof.Machine

/-- Acceptance: the request is sampled and `busy <- 1` (R24, R25). -/
def accept (op : BitVec 3) (arg : Word) (s : State) : State := { s with opReg := op, argReg := arg, busy := true }

/-- `initialize` from its first line: the clear, then the start tick (R131). -/
def beginInitialize (s : State) : State := goto .initTick (clearError s)

/-- The first event of the operation `opReg` selects (R130); 6 and 7 complete at once with `ok <- 0` (R61). -/
def beginOperation (s : State) : State :=
  match s.opReg.toNat with
  | 1 => beginInitialize s
  | 2 => goto (.cmdSel .readCsd) s
  | 3 => goto (.cmdSel .readReg) s
  | 4 => goto (.cmdSel .readBlk) s
  | 5 => goto (.cmdSel .writeBlk) s
  | _ => complete false s

/-- A request presented by the host: ignored while busy, else accepted and performed (R24). While another move of the host
waits, the operation only begins here, and each of its events is a step (R191; log 11). -/
def request (op : BitVec 3) (arg : Word) (s : State) : Result :=
  if s.busy then .next s
  else if moveWaits s then .next (beginOperation (accept op arg s))
  else runOperation (beginOperation (accept op arg s))

/-! ## The eight requests -/

/-- `nop`: "nothing starts, `busy` stays 0, nothing changes" (R60). -/
def execNop (_arg : Word) (s : State) : Result := .next s

/-- `initialize` (R131 to R135). -/
def execInitCard (arg : Word) (s : State) : Result := request 1#3 arg s

/-- `capacity` (R140 to R142). -/
def execCapacity (arg : Word) (s : State) : Result := request 2#3 arg s

/-- `readRegister`: the whole argument is sampled, bits 5 to 0 are used (R145, R146). -/
def execReadRegister (cmd : CmdIndex) (rest : BitVec 26) (s : State) : Result := request 3#3 (rest ++ cmd) s

/-- `readBlock` (R148, R149). -/
def execReadBlock (blockNumber : Word) (s : State) : Result := request 4#3 blockNumber s

/-- `writeBlock` (R152 to R154). -/
def execWriteBlock (blockNumber : Word) (s : State) : Result := request 5#3 blockNumber s

/-- `op = 6`: `ok <- 0` and nothing else the host sees (R61). -/
def execReserved6 (arg : Word) (s : State) : Result := request 6#3 arg s

/-- `op = 7`: as `op = 6` (R61). -/
def execReserved7 (arg : Word) (s : State) : Result := request 7#3 arg s

/-! ## The host's other moves -/

/-- The host writes a cell of `BUF`, which it owns while `busy = 0` (R26); while busy it is a race (U9). The history
holds SDCORE's own accesses only. -/
def hostWrite (i : Nat) (b : Byte) (s : State) : Result :=
  if s.busy then .fault (.bufRace i)
  else if i < destSize s.cfg .buf then .next { s with buf := writeCell s.buf i b }
  else .fault (.noSuchCell .buf i)

/-- The host reads a cell of `BUF`: no effect on SDCORE, a race while busy (R26, U9), no value in an unwritten cell
(R28). -/
def hostRead (i : Nat) (s : State) : Result :=
  if s.busy then .fault (.bufRace i)
  else if i < destSize s.cfg .buf then
    match readCell s.buf i with
    | some _ => .next s
    | none => .fault (.unwrittenCell .buf i)
  else .fault (.noSuchCell .buf i)

/-- SDCORE's reset input (R190, R191): the table of R28, with its one `T.desel()`; "Reset does not touch the card, the
transport or the tick source", so the queued answers, the host's script and the clock request stay. -/
def resetMachine (s : State) : State :=
  { State.resetOf s.cfg with
    clockSlow := s.clockSlow, rx := s.rx, ticks := s.ticks, host := s.host, hist := .desel :: s.hist,
    freeCount := s.freeCount }

end Sys2Proof.Machine
end

