-- ==== Sys2Proof/Machine/Dispatch.lean ====
section
/-! DEFINITION. One arm per row of spec/opcode_table.json. -/

namespace Sys2Proof.Machine

/-- The meaning of an instruction. -/
def exec (i : Instr) (s : State) : Host.Outcome State Fault Refusal :=
  match i with
  | .nop arg => Sys2Proof.Machine.execNop arg s
  | .initCard arg => Sys2Proof.Machine.execInitCard arg s
  | .capacity arg => Sys2Proof.Machine.execCapacity arg s
  | .readRegister cmd rest => Sys2Proof.Machine.execReadRegister cmd rest s
  | .readBlock blockNumber => Sys2Proof.Machine.execReadBlock blockNumber s
  | .writeBlock blockNumber => Sys2Proof.Machine.execWriteBlock blockNumber s
  | .reserved6 arg => Sys2Proof.Machine.execReserved6 arg s
  | .reserved7 arg => Sys2Proof.Machine.execReserved7 arg s
  | .cmd0 => Sys2Proof.Machine.execCmd0 s
  | .cmd1 => Sys2Proof.Machine.execCmd1 s
  | .cmd9 => Sys2Proof.Machine.execCmd9 s
  | .cmd10 => Sys2Proof.Machine.execCmd10 s
  | .cmd17 arg => Sys2Proof.Machine.execCmd17 arg s
  | .cmd24 arg => Sys2Proof.Machine.execCmd24 arg s
  | .cmd55 => Sys2Proof.Machine.execCmd55 s
  | .acmd41 => Sys2Proof.Machine.execAcmd41 s
  | .cmdN cmd => Sys2Proof.Machine.execCmdN cmd s
  | .r1NotYet low => Sys2Proof.Machine.execR1NotYet low s
  | .r1Ready => Sys2Proof.Machine.execR1Ready s
  | .r1Idle => Sys2Proof.Machine.execR1Idle s
  | .idleByte => Sys2Proof.Machine.execIdleByte s
  | .startToken => Sys2Proof.Machine.execStartToken s
  | .dataResAccepted b => Sys2Proof.Machine.execDataResAccepted b s
  | .fillByte => Sys2Proof.Machine.execFillByte s

end Sys2Proof.Machine
end

