-- ==== Sys2Proof/Machine/Fetch.lean ====
section
/-! DEFINITION. What comes next: a unit of the opcode table at the port it stands at, or an event that is no row of the
table. SDCORE has no program counter (spec/10_state.md R13): a request stands at the host port, a frame at the framer, a
byte at the transport. -/

namespace Sys2Proof.Machine

/-- What a step has to do. -/
inductive Fetched where
  /-- Run the decoded instruction on the state after its fetch. -/
  | run (i : Instr) (s : State)
  /-- The step is done: an event that stands for no row of the table. -/
  | done (r : Result)

/-- The comparison a received byte meets at a position; payload and trailer bytes meet none (R124). -/
def recvCtx : Pos → Option ByteCtx
  | .cmdIdle _ => some .busIdle
  | .cmdPoll _ => some .response
  | .tokRecv (.startToken _) => some .tokenIn
  | .tokRecv .writeBusy => some .busIdle
  | .wrAck => some .dataResponse
  | .idle | .initTick | .initSlow | .initDesel | .initPrime _ | .initSel | .initResetTick | .initReadyTick | .initDone
  | .cmdSel _ | .cmdFrame _ | .cmdSend _ _ | .latch _ | .regDesel _ | .tokStart _ | .tokTick _ | .payload _ | .store _ _
  | .trailer _ _ | .xferDesel _ | .capCompute _ | .wrToken | .wrData | .wrSend _ | .wrFill _ | .wrDesel => none

/-- The unit SDCORE sends at a position, where it is a row of the table. -/
def sentUnit (s : State) : Option (ByteCtx × Wire) :=
  match s.pos with
  | .cmdFrame call => some (.busIdle, .frame (callFrame s.cfg s.argReg call))
  | .initPrime _ => some (.filler, .byte s.cfg.fillByte)
  | .wrFill _ => some (.filler, .byte s.cfg.fillByte)
  | .wrToken => some (.tokenOut, .byte s.cfg.startToken)
  | .idle | .initTick | .initSlow | .initDesel | .initSel | .initResetTick | .initReadyTick | .initDone | .cmdSel _
  | .cmdIdle _ | .cmdSend _ _ | .cmdPoll _ | .latch _ | .regDesel _ | .tokStart _ | .tokRecv _ | .tokTick _
  | .payload _ | .store _ _ | .trailer _ _ | .xferDesel _ | .capCompute _ | .wrData | .wrSend _ | .wrAck | .wrDesel => none

/-- Run the decoded unit, or do the event itself where the unit is no row of the table. -/
def runDecoded (d : Except DecodeError Instr) (s : State) (otherwise : Result) : Fetched :=
  match d with
  | .ok i => .run i s
  | .error _ => .done otherwise

/-- The sequencer's next event as a unit of the table, where it is one. -/
def fetchUnit (s : State) : Fetched :=
  if awaitsByte s.pos then
    match recvCtx s.pos with
    | some ctx =>
      runDecoded (decode s.cfg ctx (.byte (takeByte s).1)) (takeByte s).2 (onByte (takeByte s).1 (takeByte s).2)
    | none => .done (seqStep s)
  else
    match sentUnit s with
    | some (ctx, u) => runDecoded (decode s.cfg ctx u) s (seqStep s)
    | none => .done (seqStep s)

/-- The host's next move comes first; without one the sequencer goes on (R24, R26, R190; log 10). -/
def fetch (s : State) : Fetched :=
  match s.host with
  | [] => fetchUnit s
  | .pass :: rest => fetchUnit { s with host := rest }
  | .await :: rest => if s.busy then fetchUnit s else .done (.next { s with host := rest })
  | .request w :: rest => .run (decodeHostReq w) { s with host := rest }
  | .writeBuf i b :: rest => .done (hostWrite i b { s with host := rest })
  | .readBuf i :: rest => .done (hostRead i { s with host := rest })
  | .reset :: rest => .done (.next (resetMachine { s with host := rest }))

/-! ## Placing a unit where the next step fetches it -/

/-- The call of CARDCMD that emits a frame, and the argument register under which it does (R72 to R79, R145). -/
def callOf (c : Config) : Instr → Option (BitVec 3 × Call × Word)
  | .cmd0 => some (1#3, .reset, 0#32)
  | .cmd1 => some (1#3, .legacyInit, 0#32)
  | .cmd9 => some (2#3, .readCsd, 0#32)
  | .cmd10 => some (3#3, .readReg, c.cmdReadCid.setWidth 32)
  | .cmd17 arg => some (4#3, .readBlk, arg >>> c.blockShift)
  | .cmd24 arg => some (5#3, .writeBlk, arg >>> c.blockShift)
  | .cmd55 => some (1#3, .appPrefix, 0#32)
  | .acmd41 => some (1#3, .appInit, 0#32)
  | .cmdN cmd => some (3#3, .readReg, cmd.setWidth 32)
  | .nop _ | .initCard _ | .capacity _ | .readRegister _ _ | .readBlock _ | .writeBlock _ | .reserved6 _
  | .reserved7 _ | .r1NotYet _ | .r1Ready | .r1Idle | .idleByte | .startToken | .dataResAccepted _ | .fillByte => none

/-- An operation, and its position at which a received byte meets a comparison; a sent byte's position for the two
sent ones. -/
def posOf : ByteCtx → BitVec 3 × Pos
  | .busIdle => (4#3, .cmdIdle .readBlk)
  | .response => (4#3, .cmdPoll .readBlk)
  | .tokenIn => (4#3, .tokRecv (.startToken .block))
  | .dataResponse => (5#3, .wrAck)
  | .tokenOut => (5#3, .wrToken)
  | .filler => (5#3, .wrFill 1)

/-- SDCORE in the middle of operation `op` at position `p`, with no host move pending. -/
def inFlight (op : BitVec 3) (p : Pos) (s : State) : State := { s with busy := true, opReg := op, pos := p, host := [] }

/-- Place a unit where the next step fetches it: a request as the host's next move, a frame as the pending frame of the
call that emits it, a byte as the next answer at the position the table's decoder reads it at (log 22). -/
def placeUnit (u : Wire) (s : State) : State :=
  match u with
  | .hostReq w => { s with host := .request w :: s.host }
  | .frame w =>
    match decodeFrame s.cfg w with
    | .error _ => s
    | .ok i =>
      match callOf s.cfg i with
      | some (op, call, arg) => inFlight op (.cmdFrame call) { s with argReg := arg }
      | none => s
  | .byte b =>
    inFlight (posOf (tableCtx s.cfg b)).1 (posOf (tableCtx s.cfg b)).2 { s with rx := b :: s.rx }

end Sys2Proof.Machine
end

