-- ==== Sys2Proof/Machine/Step.lean ====
section
/-! DEFINITION. One step of the machine: a move of the host, or the sequencer's next event. -/

namespace Sys2Proof.Machine

/-- One step. -/
def step (s : State) : Host.Outcome State Fault Refusal :=
  match fetch s with
  | .run i s' => exec i s'
  | .done r => r

/-- `s` with the unit `w` of `nbits` bits placed where `step` fetches its next instruction. A word of no format leaves the
state alone. -/
def State.withFetchWord (s : State) (nbits w : Nat) : State :=
  match wireOf nbits w with
  | .ok u => placeUnit u s
  | .error _ => s

end Sys2Proof.Machine
end

