-- ==== Sys2Proof/Safety.lean ====
section
/-! DEFINITION. The terms claims are stated in: the machine's invariant, the environment's answers to one CARDCMD,
WAITTOKEN or transfer and the events it leaves in the history (spec/00_scope.md R9), and the memory after a payload. -/

namespace Sys2Proof.Machine

/-! ## The invariant -/

/-- The operation a position belongs to, as `opReg` numbers it (R13, R130); none when idle or where two operations share
the position. -/
def posOp : Pos → Option (BitVec 3)
  | .idle => none
  | .initTick | .initSlow | .initDesel | .initPrime _ | .initSel | .initResetTick | .initReadyTick | .initDone => some 1#3
  | .cmdSel call | .cmdIdle call | .cmdFrame call | .cmdSend call _ | .cmdPoll call => match call with
    | .reset | .legacyInit | .appPrefix | .appInit => some 1#3
    | .readCsd => some 2#3
    | .readReg => some 3#3
    | .readBlk => some 4#3
    | .writeBlk => some 5#3
  | .latch site => match site with
    | .resetFailed | .readyFailed => some 1#3
    | .readRejected => some 4#3
    | .writeRejected | .dataRejected | .busyTimeout => some 5#3
    | .tokenTimeout x => some (xferOp x)
  | .regDesel x | .payload x | .store x _ | .trailer x _ | .xferDesel x => some (xferOp x)
  | .tokStart w | .tokRecv w | .tokTick w => match w with
    | .startToken x => some (xferOp x)
    | .writeBusy => some 5#3
  | .capCompute _ => some 2#3
  | .wrToken | .wrData | .wrSend _ | .wrFill _ | .wrAck | .wrDesel => some 5#3
where
  /-- The operation that calls a transfer. -/
  xferOp : Xfer → BitVec 3
    | .capacity => 2#3
    | .register => 3#3
    | .block => 4#3

/-- The chip-select discipline (R22, R212, R135 b): deselected when idle and through the priming, selected from the start
of a command frame to the end of its data phase; a transfer streams deselected only after a start-token timeout, the
wait's result then being 0, that does not abort (R207). -/
def csAsPos (s : State) : Bool :=
  match s.pos with
  | .idle | .initTick | .initSlow | .initDesel | .initPrime _ | .initSel | .capCompute _ => !s.cs
  | .cmdIdle _ | .cmdFrame _ | .cmdSend _ _ | .cmdPoll _ | .initResetTick | .initReadyTick | .initDone | .regDesel _
  | .tokStart _ | .tokRecv _ | .tokTick _ | .wrToken | .wrData | .wrSend _ | .wrFill _ | .wrAck => s.cs
  | .latch site => s.cs && match site with
    | .tokenTimeout _ => !s.tokOk
    | .resetFailed | .readyFailed | .readRejected | .writeRejected | .dataRejected | .busyTimeout => true
  | .payload _ | .store _ _ | .trailer _ _ | .xferDesel _ => s.cs || (!s.tokOk && !s.cfg.rdTimeoutAbort)
  | .cmdSel _ | .wrDesel => true

/-- The working counters stay in their ranges (R12). -/
def countersAsPos (s : State) : Bool :=
  match s.pos with
  | .cmdPoll _ => decide (s.polls < s.cfg.cmdRespPolls)
  | .payload x | .store x _ => decide (s.idx < xferLen s.cfg x)
  | .wrData | .wrSend _ => decide (s.idx < s.cfg.blockLen)
  | .capCompute got => decide (got.length < 6)
  | _ => true

/-- The cells of `CSDR` from 0 up to `n` hold values. -/
def csdrFilled (n : Nat) (s : State) : Prop := ∀ i, i < n → (readCell s.csdr i).isSome

/-- `CSDR` is written before it is read (R12, R28): how far `capacity` has filled it. -/
def csdrAsPos (s : State) : Prop :=
  match s.pos with
  | .payload .capacity | .store .capacity _ => csdrFilled s.idx s
  | .trailer .capacity _ | .xferDesel .capacity | .capCompute _ => csdrFilled s.cfg.regLen s
  | _ => True

/-- "The strategy not built in is absent" (R133): positions of one strategy's commands occur under that strategy. -/
def strategyAsPos (s : State) : Bool :=
  match s.pos with
  | .cmdSel call | .cmdIdle call | .cmdFrame call | .cmdSend call _ | .cmdPoll call => match call with
    | .legacyInit => s.cfg.initStrategy == .legacy
    | .appPrefix | .appInit => s.cfg.initStrategy == .acmd
    | _ => true
  | _ => true

/-- Mid-frame, what is left to send is a last part of the frame of the call in flight (R100, R191). -/
def frameAsPos (s : State) : Prop :=
  match s.pos with
  | .cmdSend call left => left <:+ frameBytes (callFrame s.cfg s.argReg call)
  | _ => True

/-- What every reachable state meets. -/
structure Invariant (s : State) : Prop where
  /-- R203 and the other limits on the constants. -/
  config : s.cfg.wf = true
  /-- The canonical form of `BUF`, and its size (R40). -/
  bufForm : s.buf.wf ∧ ∀ c ∈ s.buf, c.1 < s.cfg.blockLen
  /-- The canonical form of `CSDR`, and its size (R42). -/
  csdrForm : s.csdr.wf ∧ ∀ c ∈ s.csdr, c.1 < s.cfg.regLen
  /-- `busy = 0` exactly when the position is idle (R13, R14). -/
  busyIff : s.busy = true ↔ s.pos ≠ .idle
  /-- The position is one of the sampled operation's (R130). -/
  operation : ∀ op, posOp s.pos = some op → s.opReg = op
  /-- R22, R212. -/
  select : csAsPos s = true
  /-- R12. -/
  counters : countersAsPos s = true ∧ s.polls ≤ s.cfg.cmdRespPolls ∧ s.idx ≤ s.cfg.blockLen
  /-- R12, R23. -/
  startTick : s.t0 < 2 ^ s.cfg.tickW
  /-- R15, R171: codes 9 and 10 never occur. -/
  codes : s.errorCode.toNat ≤ 8
  /-- R28: `CSDR` is written before it is read. -/
  scratch : csdrAsPos s
  /-- R133. -/
  strategy : strategyAsPos s = true
  /-- R100. -/
  frame : frameAsPos s

/-! ## The environment's answers, and the history they leave -/

/-- What the environment answers during one CARDCMD: bytes of a busy bus before the idle byte, bytes that are not yet
responses, the response. -/
structure Exchange where
  wait : List Byte
  polls : List Byte
  r : Byte
  deriving DecidableEq, Repr

/-- The bytes of an exchange in the order they are received. -/
def cmdAnswers (c : Config) (e : Exchange) : List Byte := e.wait ++ c.idleByte :: (e.polls ++ [e.r])

/-- The exchange answers one CARDCMD to its end: `r` is the first response, or the last byte the poll may take (R101,
R102). -/
def AnswersCmd (c : Config) (e : Exchange) : Prop :=
  (∀ b ∈ e.wait, b ≠ c.idleByte) ∧ (∀ b ∈ e.polls, notYet b = true) ∧ e.polls.length < c.cmdRespPolls ∧
    pollEnds c (e.polls.length + 1) e.r = true

/-- The sends of a frame. -/
def frameEvents (c : Config) (w : FrameWord) : List Event := ((frameBytes w).take c.frameLen).map .send

/-- The events of one CARDCMD, oldest first (R100). -/
def cmdEvents (c : Config) (w : FrameWord) (e : Exchange) : List Event :=
  .sel :: (e.wait.map .recv ++ .recv c.idleByte :: (frameEvents c w ++ (e.polls.map .recv ++ [.recv e.r])))

/-- Unsuccessful attempts of a phase of `initialize`: each is answered to its end by a response other than `good`, and
the tick read after it is not past the timeout (R132, R133). -/
def Retries (c : Config) (good : Byte) (t : Nat) (tries : List (Exchange × Nat)) : Prop :=
  ∀ a ∈ tries, AnswersCmd c a.1 ∧ a.1.r ≠ good ∧
    expired c c.initTimeoutMs (a.2 % 2 ^ c.tickW) (t % 2 ^ c.tickW) = false

/-- The bytes received during attempts of one command each. -/
def triesAnswers (c : Config) (tries : List (Exchange × Nat)) : List Byte := tries.flatMap fun a => cmdAnswers c a.1

/-- The events of attempts of the command with frame `w`, each with its tick read. -/
def triesEvents (c : Config) (w : FrameWord) (tries : List (Exchange × Nat)) : List Event :=
  tries.flatMap fun a => cmdEvents c w a.1 ++ [.tick (a.2 % 2 ^ c.tickW)]

/-- The bytes received during attempts of the application command: the prefix's exchange, then the target's. -/
def pairAnswers (c : Config) (tries : List (Exchange × Exchange × Nat)) : List Byte :=
  tries.flatMap fun a => cmdAnswers c a.1 ++ cmdAnswers c a.2.1

/-- The events of attempts of the application command, each with its tick read. -/
def pairEvents (c : Config) (w w' : FrameWord) (tries : List (Exchange × Exchange × Nat)) : List Event :=
  tries.flatMap fun a => cmdEvents c w a.1 ++ (cmdEvents c w' a.2.1 ++ [.tick (a.2.2 % 2 ^ c.tickW)])

/-- Unsuccessful attempts of the application command: the prefix answered in any way, the target as in `Retries`. -/
def PairRetries (c : Config) (good : Byte) (t : Nat) (tries : List (Exchange × Exchange × Nat)) : Prop :=
  ∀ a ∈ tries, AnswersCmd c a.1 ∧ AnswersCmd c a.2.1 ∧ a.2.1.r ≠ good ∧
    expired c c.initTimeoutMs (a.2.2 % 2 ^ c.tickW) (t % 2 ^ c.tickW) = false

/-- Misses of a WAITTOKEN: each a byte that is not the token and the tick read after it, not past the timeout (R90). -/
def Misses (c : Config) (token : Byte) (timeout t : Nat) (misses : List (Byte × Nat)) : Prop :=
  ∀ m ∈ misses, m.1 ≠ token ∧ expired c timeout (m.2 % 2 ^ c.tickW) (t % 2 ^ c.tickW) = false

/-- The events of a WAITTOKEN up to its last receive, oldest first: the start tick `t`, then each miss. -/
def waitEvents (c : Config) (t : Nat) (misses : List (Byte × Nat)) : List Event :=
  .tick (t % 2 ^ c.tickW) :: misses.flatMap (fun m => [.recv m.1, .tick (m.2 % 2 ^ c.tickW)])

/-- The memory after the bytes `bs` are written from index `i` up (R45). -/
def fillFrom (m : Memory) (i : Nat) : List Byte → Memory
  | [] => m
  | b :: bs => fillFrom (writeCell m i b) (i + 1) bs

/-- The events of a payload received into `d` from index `i` up: each byte received, then written (R120). -/
def payloadEvents (d : Dest) (i : Nat) : List Byte → List Event
  | [] => []
  | b :: bs => .recv b :: .memWrite d i b :: payloadEvents d (i + 1) bs

/-- The events of `bs` sent from `BUF` from index `i` up: each byte read just before it is sent (R153 e). -/
def dataEvents (i : Nat) : List Byte → List Event
  | [] => []
  | b :: bs => .memRead .buf i b :: .send b :: dataEvents (i + 1) bs

/-- The events of a transfer whose token came, oldest first (R120). -/
def xferEvents (c : Config) (d : Dest) (t : Nat) (misses : List (Byte × Nat)) (payload trailer : List Byte) : List Event :=
  waitEvents c t misses ++ .recv c.startToken :: (payloadEvents d 0 payload ++ (trailer.map .recv ++ [.desel]))

/-- Cells 0 up of `BUF` hold `data` (R209). -/
def Holds (m : Memory) (data : List Byte) : Prop := ∀ i, ∀ h : i < data.length, readCell m i = some data[i]

/-- The answers of a WAITTOKEN up to and with its token. -/
def tokenAnswers (token : Byte) (misses : List (Byte × Nat)) : List Byte := misses.map Prod.fst ++ [token]

/-- The events of the priming sequence and what precedes it in `initialize`, oldest first (R131). -/
def initEvents (c : Config) (t : Nat) : List Event :=
  .tick (t % 2 ^ c.tickW) :: .slowClock :: .desel :: (List.replicate c.primeBytes (.send c.fillByte) ++ [.sel])

/-- The count a register image gives, where the formula has a value (R70, R141). -/
def csdCapacity (bs : List Byte) : Option Word :=
  fieldsCapacity ([5, 6, 7, 8, 9, 10].map fun i => bs.getD i 0#8)

/-- The reads of `CSDR` by the computation of `capacity`, oldest first (R43). -/
def csdReads (bs : List Byte) : List Event := [5, 6, 7, 8, 9, 10].map fun i => .memRead .csdr i (bs.getD i 0#8)

/-! ## Where a response leads -/

/-- The position after the ready response to each call (R115, R132, R133, R104, R148, R152). -/
def afterReady : Call → Pos
  | .reset => .initResetTick
  | .legacyInit | .appInit => .initDone
  | .appPrefix => .cmdSel .appInit
  | .readCsd => .tokStart (.startToken .capacity)
  | .readReg => .tokStart (.startToken .register)
  | .readBlk => .tokStart (.startToken .block)
  | .writeBlk => .wrToken

/-- The position after a response to each call that is neither the ready nor the idle one. -/
def afterOther : Call → Pos
  | .reset => .initResetTick
  | .legacyInit | .appInit => .initReadyTick
  | .appPrefix => .cmdSel .appInit
  | .readCsd => .regDesel .capacity
  | .readReg => .regDesel .register
  | .readBlk => .latch .readRejected
  | .writeBlk => .latch .writeRejected

/-- The position after the idle response to each call: the awaited one in phase 1 of `initialize` only. -/
def afterIdle (c : Config) : Call → Pos
  | .reset => match c.initStrategy with
    | .acmd => .cmdSel .appPrefix
    | .legacy => .cmdSel .legacyInit
  | call => afterOther call

/-! ## Runs without a latch -/

/-- `t` is reached from `s` by events of the sequencer none of which is a latch. -/
inductive LatchFreeRun : State → State → Prop where
  | refl (s : State) : LatchFreeRun s s
  | event (s s' t : State) : (∀ site, s.pos ≠ .latch site) → seqStep s = .next s' → LatchFreeRun s' t → LatchFreeRun s t

end Sys2Proof.Machine
end

