-- ==== Sys2Proof/Certificates/Slice0/Obligations.lean ====
section
/-! DEFINITION. The statements for the provers. The hypothesis `s.host = []` says that no move of the host is pending,
so that the step is the sequencer's and an operation runs as far as its answers carry it; with a move pending it takes one
event a step (R191, log 11; OperationRunsToCompletion). Lists of answers are the environment's, in the order it gives
them; `rest` and `restT` are answers not taken. -/

open Sys2Proof Sys2Proof.Machine

/-! ## Encoding -/

/-- Decoding an encoded well-formed instruction gives it back, for every row and every operand (R60 to R81). -/
def Obligations.DecodeOfEncode : Prop :=
  ∀ (c : Config) (i : Instr), c.wf = true → i.wellFormed c = true → decode c i.ctx (encode c i) = .ok i

/-- A unit that decodes is the encoding of what it decodes to, and that is well formed: no row reads a neighbour's
word (R60 to R81). -/
def Obligations.EncodeOfDecode : Prop :=
  ∀ (c : Config) (ctx : ByteCtx) (u : Wire) (i : Instr), decode c ctx u = .ok i → encode c i = u ∧ i.wellFormed c = true

/-- Words written out from spec/30_encoding.md and 95_test_vectors.md (E-1, E-4, E-7, E-12, E-14, E-15) decode to what
they stand for; the constants are general knowledge (log 3). Three clauses are the model's choice (log 13): that index 0
with the filler checksum is refused, and what the bytes 0xFE and 0x80 are read as without a position, where the spec gives
a byte a meaning only at one (R81). -/
def Obligations.WordsOfTheTableDecode : Prop :=
  decodeTableWord 40 0x100000000 = some (.initCard 0#32) ∧
  decodeTableWord 40 0x500000064 = some (.writeBlock 100#32) ∧
  decodeTableWord 40 0x6DEADBEEF = some (.reserved6 0xDEADBEEF#32) ∧
  decodeTableWord 48 0x400000000095 = some .cmd0 ∧
  decodeTableWord 48 0x580000C800FF = some (.cmd24 0x0000C800#32) ∧
  decodeTableWord 48 0x6900000000FF = some .acmd41 ∧
  decodeTableWord 48 0x7F00000000FF = some (.cmdN 63#6) ∧
  decodeTableWord 48 0x4000000000FF = none ∧
  decodeTableWord 8 0xFE = some .startToken ∧
  decodeTableWord 8 0x80 = some (.r1NotYet 0#7)

/-- The bytes of a frame on the wire, in order: the command with its top two bits forced to `01` (R64), then the argument
most significant byte first (R44). The step at the frame's position sends them (newest event first in the history). -/
def Obligations.CommandAndArgumentBytes : Prop :=
  ∀ (s : State) (call : Call), s.host = [] → s.pos = .cmdFrame call → s.cfg.frameLen = 6 →
    let cmd := callCmd s.cfg s.argReg call
    let arg := callArg s.cfg s.argReg call
    ∃ t, step s = .next t ∧
      t.hist = .send (checksumByte s.cfg cmd) :: .send (arg.extractLsb' 0 8) :: .send (arg.extractLsb' 8 8) ::
        .send (arg.extractLsb' 16 8) :: .send (arg.extractLsb' 24 8) ::
        .send (0x40#8 ||| (cmd.setWidth 8 &&& 0x3F#8)) :: s.hist

/-- Each call of CARDCMD emits the frame of its row (R72 to R79); `readRegister` CMD9 or CMD10 for the two register
indices, and the generic frame for an index that has no row (R146). -/
def Obligations.EmittedFramesDecode : Prop :=
  ∀ (c : Config) (arg : Word), c.wf = true →
    decodeFrame c (callFrame c arg .reset) = .ok .cmd0 ∧
    decodeFrame c (callFrame c arg .legacyInit) = .ok .cmd1 ∧
    decodeFrame c (callFrame c arg .appPrefix) = .ok .cmd55 ∧
    decodeFrame c (callFrame c arg .appInit) = .ok .acmd41 ∧
    decodeFrame c (callFrame c arg .readCsd) = .ok .cmd9 ∧
    decodeFrame c (callFrame c arg .readBlk) = .ok (.cmd17 (arg <<< c.blockShift)) ∧
    decodeFrame c (callFrame c arg .writeBlk) = .ok (.cmd24 (arg <<< c.blockShift)) ∧
    (argCmd arg = c.cmdReadCsd → decodeFrame c (callFrame c arg .readReg) = .ok .cmd9) ∧
    (argCmd arg = c.cmdReadCid → decodeFrame c (callFrame c arg .readReg) = .ok .cmd10) ∧
    (argCmd arg ∉ c.namedIndices → decodeFrame c (callFrame c arg .readReg) = .ok (.cmdN (argCmd arg)))

/-! ## Steps -/

/-- A step runs the decoded unit: the request at the host port, the received byte at a position with a comparison, the
frame at the framer, the filler and the token a write sends. What the step adds is the fetch: the move taken off the
script, the byte taken from the answers. -/
def Obligations.StepRunsTheDecodedUnit : Prop :=
  (∀ (s : State) (w : ReqWord) (rest : List HostMove), s.host = .request w :: rest →
    step s = exec (decodeHostReq w) { s with host := rest }) ∧
  (∀ (s : State) (ctx : ByteCtx) (b : Byte) (rest : List Byte) (i : Instr), s.host = [] → recvCtx s.pos = some ctx →
    s.rx = b :: rest → decodeByte s.cfg ctx b = .ok i → step s = exec i { s with rx := rest }) ∧
  (∀ (s : State) (call : Call) (i : Instr), s.host = [] → s.pos = .cmdFrame call →
    decodeFrame s.cfg (callFrame s.cfg s.argReg call) = .ok i → step s = exec i s) ∧
  (∀ s : State, s.host = [] → sendsFill s.pos = true → step s = exec .fillByte s) ∧
  (∀ s : State, s.host = [] → s.pos = .wrToken → step s = exec .startToken s)

/-- Without a move of the host, a step is the sequencer's next event: going through the decoder and `exec` gives every
frame and byte the effect the pseudocode gives its position (R81, R100 to R154), in every configuration. -/
def Obligations.StepIsTheSequencersEvent : Prop :=
  (∀ s : State, s.host = [] → step s = seqStep s) ∧
  (∀ (s : State) (rest : List HostMove), s.host = .pass :: rest → step s = seqStep { s with host := rest })

/-- A word of the table placed after reset is what the next step fetches and runs (the model's interface, log 22). -/
def Obligations.PlacedWordIsFetched : Prop :=
  ∀ (nbits w : Nat) (i : Instr), decodeTableWord nbits w = some i →
    ∃ s', fetch (State.reset.withFetchWord nbits w) = .run i s' ∧ step (State.reset.withFetchWord nbits w) = exec i s'

/-- No instruction and no step is refused. This is the model's choice: of the reserved requests (R61), of `readRegister` with
an index other than 9 and 10 (R146) and of block numbers at or above 2^23 (R149) the spec says that a model should or may
refuse them, and the model gives them the effect the spec also states (log 15, log 17, log 16). -/
def Obligations.NothingIsRefused : Prop :=
  ∀ (s : State) (i : Instr) (r : Refusal), exec i s ≠ .refused r ∧ step s ≠ .refused r

/-! ## The invariant -/

/-- The invariant holds right after reset, in every well-formed configuration, and for `State.reset`. -/
def Obligations.InvAtReset : Prop :=
  (∀ c : Config, c.wf = true → Invariant (State.resetOf c)) ∧ Invariant State.reset

/-- Every step keeps the invariant: chip-select discipline (R22, R212), ranges of the counters (R12), canonical memories
(R40), error codes (R171), the strategy not built in absent (R133), `CSDR` written before it is read (R28), a frame under
way with the end of its own bytes left to send (R100). -/
def Obligations.StepKeepsInv : Prop :=
  ∀ s t : State, Invariant s → step s = .next t → Invariant t

/-- Under the invariant a step faults only for a cell of `BUF` that nothing has written (R28, R209), a host access to
`BUF` while busy (R26, U9), or a host access outside `BUF`. No operation reads `CSDR` before writing it. That these three
accesses are faults is the model's choice (log 7, log 20). -/
def Obligations.OnlyTheNamedFaults : Prop :=
  ∀ (s : State) (f : Fault), Invariant s → step s = .fault f →
    (∃ i, f = .unwrittenCell .buf i ∧ readCell s.buf i = none) ∨
    (∃ i, f = .bufRace i ∧ s.busy = true) ∨
    (∃ i, f = .noSuchCell .buf i ∧ s.cfg.blockLen ≤ i)

/-- Every exit path of every operation deselects the card (R22, R212): when an operation started in any idle state has
completed, `cs = 0`. -/
def Obligations.EveryExitPathDeselects : Prop :=
  ∀ (s t : State) (arg : Word) (cmd : CmdIndex) (top : BitVec 26),
    ∀ i ∈ [Instr.initCard arg, .capacity arg, .readRegister cmd top, .readBlock arg, .writeBlock arg],
      s.busy = false → exec i s = .next t → t.busy = false → t.cs = false

/-- An operation runs until it completes or waits for an answer the environment has not queued: the bound on the events
of one `exec` never cuts it short (R24). While a move of the host waits, it only begins in that `exec`, and one event is one
step, so that a reset may land after any of them (R191); taken so, it comes to the same state. That one `exec` runs the
whole operation where no move waits is the model's choice (log 11). -/
def Obligations.OperationRunsToCompletion : Prop :=
  ∀ (s : State) (arg : Word) (cmd : CmdIndex) (top : BitVec 26), s.busy = false →
    (∀ i ∈ [Instr.initCard arg, .capacity arg, .readRegister cmd top, .readBlock arg, .writeBlock arg],
      s.host = [] → ∀ t, exec i s = .next t → settled t = true ∧
        ∀ rest, ∃ u n, exec i { s with host := .await :: rest } = .next u ∧
          Sys2Proof.core.run n u = .next { t with host := .await :: rest }) ∧
    (s.host ≠ [] →
      exec (.initCard arg) s = .next { s with
        errorCode := 0#8, errorData := 0#8, busy := true, opReg := 1#3, argReg := arg, pos := .initTick } ∧
      exec (.capacity arg) s = .next { s with busy := true, opReg := 2#3, argReg := arg, pos := .cmdSel .readCsd } ∧
      exec (.readRegister cmd top) s =
        .next { s with busy := true, opReg := 3#3, argReg := top ++ cmd, pos := .cmdSel .readReg } ∧
      exec (.readBlock arg) s = .next { s with busy := true, opReg := 4#3, argReg := arg, pos := .cmdSel .readBlk } ∧
      exec (.writeBlock arg) s = .next { s with busy := true, opReg := 5#3, argReg := arg, pos := .cmdSel .writeBlk })

/-! ## Whole-machine rules -/

/-- No step changes the configuration: there is no register through which it is changed, and reset leaves it (R18). -/
def Obligations.ConfigurationIsConstant : Prop :=
  ∀ s t : State, step s = .next t → t.cfg = s.cfg

/-- The history only grows: events are recorded in one order and never withdrawn (R51). A step after which a move of the
host still waits records one event at most: a transport event, a tick read or an access to a byte memory; so a reset may
land after any of them (R191). -/
def Obligations.HistoryOnlyGrows : Prop :=
  ∀ s t : State, step s = .next t → s.hist <:+ t.hist ∧
    (t.host ≠ [] → t.hist = s.hist ∨ ∃ e, t.hist = e :: s.hist)

/-- Operands are sampled once: while an operation is in flight no step but a reset changes `opReg` or `argReg`, whatever
the host presents (R24, R25). -/
def Obligations.OperandsAreSampledOnce : Prop :=
  ∀ s t : State, s.busy = true → (∀ rest, s.host ≠ .reset :: rest) → step s = .next t →
    t.opReg = s.opReg ∧ t.argReg = s.argReg

/-- `ok` and `capacityOut` do not change while an operation is in flight, only at its completion (R14, R17). -/
def Obligations.ResultsUnchangedWhileBusy : Prop :=
  ∀ s t : State, s.busy = true → step s = .next t → t.busy = true → t.ok = s.ok ∧ t.capacityOut = s.capacityOut

/-- Codes 9 and 10 are never raised: a step never leaves a code above 8 where there was none (R171). -/
def Obligations.ReservedCodesNeverRaised : Prop :=
  ∀ s t : State, s.errorCode.toNat ≤ 8 → step s = .next t → t.errorCode.toNat ≤ 8

/-- The error state is cleared only at the start of `initialize` and by reset, and there it is cleared (R165). -/
def Obligations.ErrorClearedOnlyByInitializeOrReset : Prop :=
  (∀ s t : State, step s = .next t → s.errorCode ≠ 0#8 → t.errorCode = 0#8 →
    (∃ arg rest, s.host = .request (reqWord 1#3 arg) :: rest ∧ s.busy = false) ∨ ∃ rest, s.host = .reset :: rest) ∧
  (∀ (s : State) (arg : Word), (beginOperation (accept 1#3 arg s)).errorCode = 0#8 ∧
    (beginOperation (accept 1#3 arg s)).errorData = 0#8) ∧
  (∀ (s : State) (rest : List HostMove), s.host = .reset :: rest →
    ∃ t, step s = .next t ∧ t.errorCode = 0#8 ∧ t.errorData = 0#8)

/-- For every operation other than `initialize`, if no latch occurs during it, the error state after it equals the one
before it (R167). -/
def Obligations.ErrorPersistsWithoutLatch : Prop :=
  ∀ (s t : State) (op : BitVec 3) (arg : Word), op ≠ 1#3 →
    LatchFreeRun (beginOperation (accept op arg s)) t → t.errorCode = s.errorCode ∧ t.errorData = s.errorData

/-- Which errors each operation can leave: its own, by the table of R161, or the one that stood before; the same of each of
its events. The numbers are the spec's own (D4). -/
def Obligations.ErrorsOfEachOperation : Prop :=
  (∀ s t : State, Invariant s → seqStep s = .next t → t.errorCode ∈ s.errorCode ::
    (if s.opReg = 1#3 then
      [errorNumber .resetNotAcknowledged, errorNumber .readyFailedAcmd, errorNumber .readyFailedLegacy]
    else if s.opReg = 4#3 then [errorNumber .readCommandRejected, errorNumber .readStartTokenTimeout]
    else if s.opReg = 5#3 then
      [errorNumber .writeCommandRejected, errorNumber .writeDataRejected, errorNumber .writeBusyTimeout]
    else [errorNumber .readStartTokenTimeout])) ∧
  ∀ (s t : State) (arg : Word) (cmd : CmdIndex) (top : BitVec 26), s.busy = false →
    (exec (.initCard arg) s = .next t → t.errorCode ∈
      [0#8, errorNumber .resetNotAcknowledged, errorNumber .readyFailedAcmd, errorNumber .readyFailedLegacy]) ∧
    (exec (.capacity arg) s = .next t → t.errorCode ∈ [s.errorCode, errorNumber .readStartTokenTimeout]) ∧
    (exec (.readRegister cmd top) s = .next t → t.errorCode ∈ [s.errorCode, errorNumber .readStartTokenTimeout]) ∧
    (exec (.readBlock arg) s = .next t → t.errorCode ∈
      [s.errorCode, errorNumber .readCommandRejected, errorNumber .readStartTokenTimeout]) ∧
    (exec (.writeBlock arg) s = .next t → t.errorCode ∈
      [s.errorCode, errorNumber .writeCommandRejected, errorNumber .writeDataRejected, errorNumber .writeBusyTimeout])

/-- What each request leaves unchanged, completed or not (R17, R19, R43): `BUF` is written by `readRegister` (its first
`REG_LEN` cells) and `readBlock` only; `CSDR` and `capacityOut` by `capacity` only; the clock request by `initialize`
only; the configuration and the host's script by none. The same of each event of the operation that was sampled. -/
def Obligations.RequestsFrame : Prop :=
  (∀ s t : State, Invariant s → seqStep s = .next t →
    (s.opReg ≠ 3#3 → s.opReg ≠ 4#3 → t.buf = s.buf) ∧
    (s.opReg = 3#3 → ∀ a, s.cfg.regLen ≤ a → readCell t.buf a = readCell s.buf a) ∧
    (s.opReg = 4#3 → ∀ a, s.cfg.blockLen ≤ a → readCell t.buf a = readCell s.buf a) ∧
    (s.opReg ≠ 2#3 → t.csdr = s.csdr ∧ t.capacityOut = s.capacityOut) ∧
    (s.opReg ≠ 1#3 → t.clockSlow = s.clockSlow) ∧ t.cfg = s.cfg ∧ t.host = s.host) ∧
  ∀ (s t : State) (arg : Word) (cmd : CmdIndex) (top : BitVec 26),
    (∀ i ∈ [Instr.nop arg, .initCard arg, .capacity arg, .writeBlock arg, .reserved6 arg, .reserved7 arg],
      exec i s = .next t → ∀ a, readCell t.buf a = readCell s.buf a) ∧
    (exec (.readRegister cmd top) s = .next t → ∀ a, s.cfg.regLen ≤ a → readCell t.buf a = readCell s.buf a) ∧
    (exec (.readBlock arg) s = .next t → ∀ a, s.cfg.blockLen ≤ a → readCell t.buf a = readCell s.buf a) ∧
    (∀ i ∈ [Instr.nop arg, .initCard arg, .readRegister cmd top, .readBlock arg, .writeBlock arg, .reserved6 arg,
        .reserved7 arg],
      exec i s = .next t → (∀ a, readCell t.csdr a = readCell s.csdr a) ∧ t.capacityOut = s.capacityOut) ∧
    (∀ i ∈ [Instr.nop arg, .capacity arg, .readRegister cmd top, .readBlock arg, .writeBlock arg, .reserved6 arg,
        .reserved7 arg],
      exec i s = .next t → t.clockSlow = s.clockSlow) ∧
    (∀ i ∈ [Instr.nop arg, .initCard arg, .capacity arg, .readRegister cmd top, .readBlock arg, .writeBlock arg,
        .reserved6 arg, .reserved7 arg],
      exec i s = .next t → t.cfg = s.cfg ∧ t.host = s.host)

/-! ## The host port -/

/-- The requests that start nothing: `nop` changes nothing; a reserved request is sampled, sets `ok <- 0` and completes at
once with no event, the error state and `capacityOut` unchanged; any request while busy is ignored (R24, R60, R61; the
encodings and the ignoring are the spec's own, D2 and D3). That a reserved request takes that effect, where R61 and U6 say
a model should treat it as a refusal, and that it is sampled, is the model's choice (log 15, log 21). -/
def Obligations.RequestsThatStartNothing : Prop :=
  ∀ (s : State) (arg : Word) (cmd : CmdIndex) (top : BitVec 26),
    exec (.nop arg) s = .next s ∧
    (s.busy = false →
      exec (.reserved6 arg) s = .next { s with opReg := 6#3, argReg := arg, ok := false, busy := false, pos := .idle } ∧
      exec (.reserved7 arg) s = .next { s with opReg := 7#3, argReg := arg, ok := false, busy := false, pos := .idle }) ∧
    (s.busy = true → ∀ i ∈ [Instr.initCard arg, .capacity arg, .readRegister cmd top, .readBlock arg, .writeBlock arg,
        .reserved6 arg, .reserved7 arg], exec i s = .next s)

/-- The host writes and reads `BUF` freely while idle (R26): a write changes that cell and no other, a read of a written
cell changes nothing, whatever cells it has written. The faults are the model's choice: of an access while busy, which the
spec leaves undefined (R26, U9; log 20), of one outside `BUF`, of which the spec says nothing beyond the index range of R40
(log 20), and of a read of a cell that holds no value (R28, U12; log 7). -/
def Obligations.HostAccessesBufWhenIdle : Prop :=
  (∀ (s : State) (i : Nat) (b : Byte) (rest : List HostMove), s.host = .writeBuf i b :: rest →
    (s.busy = true → step s = .fault (.bufRace i)) ∧
    (s.busy = false → i < s.cfg.blockLen →
      step s = .next { s with host := rest, buf := writeCell s.buf i b } ∧
      ∀ a, readCell (writeCell s.buf i b) a = if a = i then some b else readCell s.buf a) ∧
    (s.busy = false → s.cfg.blockLen ≤ i → step s = .fault (.noSuchCell .buf i))) ∧
  (∀ (s : State) (i : Nat) (rest : List HostMove), s.host = .readBuf i :: rest →
    (s.busy = true → step s = .fault (.bufRace i)) ∧
    (s.busy = false → i < s.cfg.blockLen → ∀ b, readCell s.buf i = some b → step s = .next { s with host := rest }) ∧
    (s.busy = false → i < s.cfg.blockLen → readCell s.buf i = none → step s = .fault (.unwrittenCell .buf i)) ∧
    (s.busy = false → s.cfg.blockLen ≤ i → step s = .fault (.noSuchCell .buf i)))

/-- The state right after reset, and reset at any moment: the values of R28's table and one deselect; the configuration,
the transport's and the tick source's coming answers are not touched (R28, R190). A reset that the host has placed after one
more event abandons the operation at that event, whichever it is, mid-frame and mid-payload too (R191; the values are the
spec's own, D6). The zeros of the registers the table leaves unspecified are not part of the statement (log 8). -/
def Obligations.ResetValues : Prop :=
  let quiet := fun t : State => t.errorCode = 0#8 ∧ t.errorData = 0#8 ∧ t.cs = false ∧ t.busy = false ∧ t.ok = false ∧
    t.capacityOut = 0#32 ∧ t.pos = .idle ∧ (∀ i, readCell t.buf i = none) ∧ (∀ i, readCell t.csdr i = none)
  (quiet State.reset ∧ State.reset.hist = [.desel]) ∧
  (∀ (s : State) (rest : List HostMove), s.host = .reset :: rest →
    ∃ t, step s = .next t ∧ quiet t ∧ t.hist = .desel :: s.hist ∧ t.cfg = s.cfg ∧ t.rx = s.rx ∧ t.ticks = s.ticks ∧
      t.host = rest) ∧
  (∀ (s s' : State) (rest : List HostMove), s.host = .pass :: .reset :: rest → step s = .next s' →
    (s'.hist = s.hist ∨ ∃ e, s'.hist = e :: s.hist) ∧
      ∃ t, step s' = .next t ∧ quiet t ∧ t.hist = .desel :: s'.hist ∧ t.host = rest)

/-! ## The error latch -/

/-- `raise Latch(code, data)` does three things in order and nothing else; the pseudocode that raised it then goes on, which
is `return false` at every site but the token timeout that does not abort and the busy timeout (R163). -/
def Obligations.LatchDoesThreeThings : Prop :=
  (∀ (e : ErrorName) (d : Byte) (s : State),
    raiseLatch e d s = { s with errorCode := errorNumber e, errorData := d, cs := false, hist := .desel :: s.hist }) ∧
  (∀ (s : State) (site : LatchSite), s.host = [] → s.pos = .latch site →
    ∃ t, step s = .next t ∧ t.errorCode = errorNumber (siteError s.cfg site) ∧ t.errorData = siteData s site ∧
      t.cs = false ∧ t.hist = .desel :: s.hist ∧ t.buf = s.buf ∧ t.csdr = s.csdr ∧ t.argReg = s.argReg ∧ t.r1 = s.r1 ∧
      ((∀ x, site ≠ .tokenTimeout x) → site ≠ .busyTimeout → t.busy = false ∧ t.ok = false ∧ t.pos = .idle) ∧
      ((∃ x, site = .tokenTimeout x) → s.cfg.rdTimeoutAbort = true → t.busy = false ∧ t.ok = false ∧ t.pos = .idle) ∧
      ((∃ x, site = .tokenTimeout x) → s.cfg.rdTimeoutAbort = false → t.busy = s.busy ∧ t.ok = s.ok ∧ t.idx = 0) ∧
      (site = .busyTimeout → t.busy = s.busy ∧ t.ok = s.ok ∧ t.pos = .wrDesel))

/-- The error table: the code, the diagnostic byte and what follows, for each raising step (R161, R162). The numbers and
the zero of the two timeouts are the spec's own (D4, D5). -/
def Obligations.ErrorTable : Prop :=
  ∀ s : State, s.host = [] →
    (s.pos = .latch .resetFailed → ∃ t, step s = .next t ∧ t.errorCode = 1#8 ∧ t.errorData = s.r1 ∧ t.ok = false) ∧
    (s.pos = .latch .readyFailed → s.cfg.initStrategy = .acmd →
      ∃ t, step s = .next t ∧ t.errorCode = 2#8 ∧ t.errorData = s.r1 ∧ t.ok = false) ∧
    (s.pos = .latch .readyFailed → s.cfg.initStrategy = .legacy →
      ∃ t, step s = .next t ∧ t.errorCode = 3#8 ∧ t.errorData = s.r1 ∧ t.ok = false) ∧
    (s.pos = .latch .writeRejected → ∃ t, step s = .next t ∧ t.errorCode = 4#8 ∧ t.errorData = s.r1 ∧ t.ok = false) ∧
    (s.pos = .latch .readRejected → ∃ t, step s = .next t ∧ t.errorCode = 5#8 ∧ t.errorData = s.r1 ∧ t.ok = false) ∧
    (∀ x, s.pos = .latch (.tokenTimeout x) → ∃ t, step s = .next t ∧ t.errorCode = 6#8 ∧ t.errorData = 0#8 ∧
      (s.cfg.rdTimeoutAbort = true → t.ok = false ∧ t.busy = false) ∧
      (s.cfg.rdTimeoutAbort = false → 0 < xferLen s.cfg x → t.pos = .payload x ∧ t.idx = 0)) ∧
    (s.pos = .latch .dataRejected → ∃ t, step s = .next t ∧ t.errorCode = 7#8 ∧ t.errorData = s.ack ∧ t.ok = false) ∧
    (s.pos = .latch .busyTimeout → ∃ t, step s = .next t ∧ t.errorCode = 8#8 ∧ t.errorData = 0#8 ∧ t.pos = .wrDesel)

/-! ## Frames and bytes -/

/-- Each frame row, run where the framer is about to send a frame, sends its own bytes and starts the response poll; nothing
else changes (R62, R72 to R80, R100, R146). While a move of the host waits it sends its first byte, and each step one more,
so that the move may land mid-frame (R191). A step runs there the row of the call in flight only ("Issued only by", R72 to
R79); that any other row run there is sent with its own bytes is the model's choice (log 12), as is `readRegister`'s frame
of an index without a row (log 17). -/
def Obligations.FrameRowsTransmit : Prop :=
  (∀ (s : State) (call : Call) (left : List Byte), s.pos = .cmdSend call left → s.host = [] →
    step s = .next { s with polls := 0, pos := .cmdPoll call, hist := (left.map Event.send).reverse ++ s.hist }) ∧
  (∀ (s : State) (call : Call) (b : Byte) (left : List Byte) (move : HostMove) (rest : List HostMove),
    s.pos = .cmdSend call (b :: left) → s.host = .pass :: move :: rest →
    step s = .next { s with
      polls := if left = [] then 0 else s.polls, pos := if left = [] then .cmdPoll call else .cmdSend call left,
      hist := .send b :: s.hist, host := move :: rest }) ∧
  ∀ (s : State) (call : Call) (arg : Word) (cmd : CmdIndex), s.cfg.wf = true → s.pos = .cmdFrame call →
    let sent := fun w : FrameWord => Host.Outcome.next (ρ := Refusal) (φ := Fault)
      (if s.host = [] then
        { s with polls := 0, pos := .cmdPoll call, hist := (frameEvents s.cfg w).reverse ++ s.hist }
      else { s with pos := .cmdSend call (frameBytes w).tail, hist := .send (w.extractLsb' 40 8) :: s.hist })
    exec .cmd0 s = sent (frameWord s.cfg s.cfg.cmdReset 0#32) ∧
    exec .cmd1 s = sent (frameWord s.cfg s.cfg.cmdLegacyInit 0#32) ∧
    exec .cmd9 s = sent (frameWord s.cfg s.cfg.cmdReadCsd 0#32) ∧
    exec .cmd10 s = sent (frameWord s.cfg s.cfg.cmdReadCid 0#32) ∧
    exec (.cmd17 arg) s = sent (frameWord s.cfg s.cfg.cmdReadBlock arg) ∧
    exec (.cmd24 arg) s = sent (frameWord s.cfg s.cfg.cmdWriteBlock arg) ∧
    exec .cmd55 s = sent (frameWord s.cfg s.cfg.cmdAppPrefix 0#32) ∧
    exec .acmd41 s = sent (frameWord s.cfg s.cfg.acmdInit 0#32) ∧
    exec (.cmdN cmd) s = sent (frameWord s.cfg cmd 0#32)

/-- A byte with bit 7 set in the response poll: one more receive, unless it was the last one allowed; then the caller gets
it (R67, R102; what an exhausted poll returns is the spec's own choice, D10). -/
def Obligations.NotYetByteInPoll : Prop :=
  ∀ (s : State) (call : Call) (low : BitVec 7), s.cfg.wf = true → s.pos = .cmdPoll call →
    exec (.r1NotYet low) s = .next { s with
      r1 := 1#1 ++ low, polls := s.polls + 1, hist := .recv (1#1 ++ low) :: s.hist,
      pos := if s.polls + 1 = s.cfg.cmdRespPolls then afterOther call else .cmdPoll call }

/-- The ready and the idle response in the poll end it, and each caller compares the whole byte (R67, R102, R115, R132,
R133, R148, R152). -/
def Obligations.ReadyAndIdleResponses : Prop :=
  ∀ (s : State) (call : Call), s.cfg.wf = true → s.pos = .cmdPoll call →
    exec .r1Ready s = .next { s with
      r1 := s.cfg.r1Ready, polls := s.polls + 1, hist := .recv s.cfg.r1Ready :: s.hist, pos := afterReady call } ∧
    exec .r1Idle s = .next { s with
      r1 := s.cfg.r1Idle, polls := s.polls + 1, hist := .recv s.cfg.r1Idle :: s.hist, pos := afterIdle s.cfg call }

/-- The idle byte ends the bus-idle wait of the framer, and the busy wait of a write with success (R91 b, R101, R152). -/
def Obligations.IdleByteEndsTheWaits : Prop :=
  ∀ s : State,
    (∀ call, s.pos = .cmdIdle call →
      exec .idleByte s = .next { s with pos := .cmdFrame call, hist := .recv s.cfg.idleByte :: s.hist }) ∧
    (s.pos = .tokRecv .writeBusy →
      exec .idleByte s = .next { s with tokOk := true, pos := .wrDesel, hist := .recv s.cfg.idleByte :: s.hist })

/-- The start token, received, starts the streaming at index 0; sent by a write, it starts the data at index 0 (R68, R120,
R153 a). -/
def Obligations.StartTokenBothWays : Prop :=
  ∀ s : State, s.cfg.wf = true →
    (∀ x, s.pos = .tokRecv (.startToken x) →
      exec .startToken s = .next { s with
        tokOk := true, idx := 0, pos := .payload x, hist := .recv s.cfg.startToken :: s.hist }) ∧
    (s.pos = .wrToken →
      exec .startToken s = .next { s with idx := 0, pos := .wrData, hist := .send s.cfg.startToken :: s.hist })

/-- The data response of a write, one byte whose other bits are ignored (R69, R152, R153 c): an accepting one starts the
busy wait; any other is latched as error 7 with the whole byte, and the operation returns false. -/
def Obligations.DataResponseDecidesTheWrite : Prop :=
  ∀ (s : State) (b : Byte), s.pos = .wrAck →
    (b &&& s.cfg.dataResMask = s.cfg.dataResAccepted →
      exec (.dataResAccepted b) s = .next { s with ack := b, pos := .tokStart .writeBusy, hist := .recv b :: s.hist }) ∧
    (∀ rest, b &&& s.cfg.dataResMask ≠ s.cfg.dataResAccepted → s.host = [] → s.rx = b :: rest →
      Sys2Proof.core.run 2 s = .next { s with
        ack := b, rx := rest, errorCode := errorNumber .writeDataRejected, errorData := b, cs := false, ok := false,
        busy := false, pos := .idle, hist := .desel :: .recv b :: s.hist })

/-- The filler is sent as a priming byte with the card left as it is, and as a write trailer (R71, R131, R152). -/
def Obligations.FillBytePrimesAndPads : Prop :=
  ∀ (s : State) (n : Nat),
    (s.pos = .initPrime (n + 1) → exec .fillByte s = .next { s with
      hist := .send s.cfg.fillByte :: s.hist, pos := if n = 0 then .initSel else .initPrime n }) ∧
    (s.pos = .wrFill (n + 1) → exec .fillByte s = .next { s with
      hist := .send s.cfg.fillByte :: s.hist, pos := if n = 0 then .wrAck else .wrFill n })

/-- A row out of its place has no effect: no frame is due at another position, a byte is not received where nothing is
received, no filler is sent where none is due (the model's choice, log 12; R72 to R79 "Issued only by", R175 "seen only
when SDCORE next receives a byte"). -/
def Obligations.RowsOutOfPlaceHaveNoEffect : Prop :=
  ∀ (s : State) (arg : Word) (cmd : CmdIndex) (low : BitVec 7) (b : Byte),
    ((∀ call, s.pos ≠ .cmdFrame call) →
      ∀ i ∈ [Instr.cmd0, .cmd1, .cmd9, .cmd10, .cmd17 arg, .cmd24 arg, .cmd55, .acmd41, .cmdN cmd],
        exec i s = .next s) ∧
    (awaitsByte s.pos = false → ∀ i ∈ [Instr.r1NotYet low, .r1Ready, .r1Idle, .idleByte, .dataResAccepted b],
      exec i s = .next s) ∧
    (awaitsByte s.pos = false → s.pos ≠ .wrToken → exec .startToken s = .next s) ∧
    (sendsFill s.pos = false → exec .fillByte s = .next s)

/-- A payload byte is stored like any other, tokens and idle bytes included (R120, R124): a byte row at a payload position
is received, and the sequencer's next event writes it to the cell at `idx` of the transfer's destination and to no other
cell. -/
def Obligations.PayloadBytesAreStored : Prop :=
  ∀ (s : State) (x : Xfer) (low : BitVec 7) (d : Byte), s.cfg.wf = true → s.pos = .payload x → s.idx < xferLen s.cfg x →
    ∀ i ∈ [Instr.r1NotYet low, .r1Ready, .r1Idle, .idleByte, .startToken, .dataResAccepted d],
      ∃ b t, encode s.cfg i = .byte b ∧
        exec i s = .next { s with pos := .store x b, hist := .recv b :: s.hist } ∧
        seqStep { s with pos := .store x b, hist := .recv b :: s.hist } = .next t ∧ t.idx = s.idx + 1 ∧
        t.hist = .memWrite (xferDest x) s.idx b :: .recv b :: s.hist ∧
        ∀ m a, readCell (memOf t m) a = if m = xferDest x ∧ a = s.idx then some b else readCell (memOf s m) a

/-- What a byte row leaves unchanged wherever it stands: everything but the history, the position and the working
registers; memory too, since a payload byte is written by the event after its receive (R81, R120). -/
def Obligations.ByteRowsFrame : Prop :=
  ∀ (s t : State) (low : BitVec 7) (d : Byte),
    ∀ i ∈ [Instr.r1NotYet low, .r1Ready, .r1Idle, .idleByte, .startToken, .dataResAccepted d, .fillByte],
      exec i s = .next t →
        t.cfg = s.cfg ∧ t.errorCode = s.errorCode ∧ t.errorData = s.errorData ∧ t.cs = s.cs ∧ t.busy = s.busy ∧
        t.ok = s.ok ∧ t.capacityOut = s.capacityOut ∧ t.opReg = s.opReg ∧ t.argReg = s.argReg ∧ t.t0 = s.t0 ∧
        t.clockSlow = s.clockSlow ∧ t.rx = s.rx ∧ t.ticks = s.ticks ∧ t.host = s.host ∧
        ∀ m a, readCell (memOf t m) a = readCell (memOf s m) a

/-! ## Waits -/

/-- The bus-idle wait has no timeout: however many bytes the card returns, none of them the idle byte, the sequencer is
still waiting, no error is latched and nothing is sent (R101, R200; the place of the loop is the spec's own, D9). -/
def Obligations.BusIdleWaitIsUnbounded : Prop :=
  ∀ (s : State) (call : Call), s.host = [] → s.pos = .cmdIdle call → (∀ b ∈ s.rx, b ≠ s.cfg.idleByte) →
    Sys2Proof.core.run s.rx.length s = .next { s with rx := [], hist := (s.rx.map Event.recv).reverse ++ s.hist }

/-- The elapsed time is right across a rollover of the tick, as long as the true time is below `2^TICK_W` (R92; the width
is the spec's own, D7). -/
def Obligations.ElapsedSurvivesRollover : Prop :=
  ∀ (c : Config) (start now : Nat), start ≤ now → now - start < 2 ^ c.tickW →
    elapsed c (now % 2 ^ c.tickW) (start % 2 ^ c.tickW) = now - start

/-- The time test of a wait: past the timeout, strictly, the wait fails; otherwise it goes on. In WAITTOKEN it follows a
byte that did not match, and another receive follows it (R90, R92); in `initialize` it follows a response that was not the one
waited for, in phase 1 the reset command follows it, in phase 2 the strategy's command, the prefix included (R132, R133,
R134). A timeout of `2^TICK_W - 1` never fires (R203). The order of compare and time test is the spec's own (D8, D14). -/
def Obligations.TimedWaitTest : Prop :=
  (∀ (s : State) (w : Wait) (x : Nat) (rest : List Nat), s.host = [] → s.pos = .tokTick w → s.ticks = x :: rest →
    ∃ t, step s = .next t ∧
      (waitTimeout s.cfg w < elapsed s.cfg (x % 2 ^ s.cfg.tickW) s.t0 → t.tokOk = false ∧
        t.pos = match w with
          | .startToken y => .latch (.tokenTimeout y)
          | .writeBusy => .latch .busyTimeout) ∧
      (elapsed s.cfg (x % 2 ^ s.cfg.tickW) s.t0 ≤ waitTimeout s.cfg w → t.pos = .tokRecv w)) ∧
  (∀ (s : State) (x : Nat) (rest : List Nat), s.host = [] → s.ticks = x :: rest →
    let after := fun (failed : LatchSite) (again : Call) => Host.Outcome.next (ρ := Refusal) (φ := Fault) { s with
      ticks := rest, hist := .tick (x % 2 ^ s.cfg.tickW) :: s.hist,
      pos := if s.cfg.initTimeoutMs < elapsed s.cfg (x % 2 ^ s.cfg.tickW) s.t0 then .latch failed else .cmdSel again }
    (s.pos = .initResetTick → step s = after .resetFailed .reset) ∧
    (s.pos = .initReadyTick → s.cfg.initStrategy = .legacy → step s = after .readyFailed .legacyInit) ∧
    (s.pos = .initReadyTick → s.cfg.initStrategy = .acmd → step s = after .readyFailed .appPrefix)) ∧
  (∀ (c : Config) (timeout now start : Nat), 2 ^ c.tickW - 1 ≤ timeout → expired c timeout now start = false)

/-! ## Arithmetic -/

/-- The card byte address: the low `32 - BLOCK_SHIFT` bits of the block number, times the block; with the shift of 9,
block `blockNumber mod 2^23` (R47, R149; what happens above is the spec's own choice, D19). -/
def Obligations.BlockAddressTruncates : Prop :=
  (∀ (c : Config) (n : Word), c.blockShift < 32 →
    (blockAddr c n).toNat = n.toNat % 2 ^ (32 - c.blockShift) * 2 ^ c.blockShift) ∧
  (∀ (c : Config) (n : Word), c.blockShift = 9 → n.toNat < 2 ^ 23 → (blockAddr c n).toNat = n.toNat * 512)

/-- The capacity formula over the bytes of the register: the fields' values, the result without overflow, and no value
where the shift would be negative (R70, R141, R142; the positions of the fields are general knowledge, G11). -/
def Obligations.CapacityFormula : Prop :=
  ∀ b5 b6 b7 b8 b9 b10 : Byte,
    let len := b5.toNat % 16
    let size := b6.toNat % 4 * 1024 + b7.toNat * 4 + b8.toNat / 64
    let mult := b9.toNat % 4 * 2 + b10.toNat / 128
    let value := capacityValue (csdReadBlLen b5) (csdCSize b6 b7 b8) (csdCSizeMult b9 b10)
    (mult + len < 7 → value = none) ∧
    (7 ≤ mult + len → ∃ n, value = some n ∧ n.toNat = (size + 1) * 2 ^ (mult + len - 7) ∧ n.toNat ≤ 2 ^ 27)

/-- A payload of `bs` from index `i`: the `k`-th byte is in cell `i + k`, every other cell as before (R45; upward from 0 is
the spec's own choice, D24). -/
def Obligations.PayloadInOrder : Prop :=
  ∀ (m : Memory) (i a : Nat) (bs : List Byte),
    readCell (fillFrom m i bs) a = if i ≤ a ∧ a < i + bs.length then bs[a - i]? else readCell m a

/-- Two canonical memories that read alike are the same data (the model's form of memory, log 7). -/
def Obligations.CanonicalMemoriesAreEqual : Prop :=
  ∀ m m' : Memory, m.wf → m'.wf → (∀ i, readCell m i = readCell m' i) → m = m'

/-! ## Operations, whole

Each statement gives the next state field by field, so it also says what is unchanged. The state is one in which no
further move of the host waits; where one does, the operation comes to the same state one event a step
(OperationRunsToCompletion). Where `initialize` takes its start tick, and when it tests the time, is the spec's own (D14). -/

/-- `initialize`, LEGACY, succeeds: any number of unsuccessful attempts of CMD0 within the timeout, the idle response, any
number of attempts of CMD1, the ready response (R131 to R135). -/
def Obligations.InitializeLegacySucceeds : Prop :=
  ∀ (s : State) (arg : Word) (t : Nat) (tries0 tries1 : List (Exchange × Nat)) (e0 e1 : Exchange)
    (rest : List Byte) (restT : List Nat),
    s.busy = false → s.host = [] → s.cfg.initStrategy = .legacy →
    Retries s.cfg s.cfg.r1Idle t tries0 → AnswersCmd s.cfg e0 → e0.r = s.cfg.r1Idle →
    Retries s.cfg s.cfg.r1Ready t tries1 → AnswersCmd s.cfg e1 → e1.r = s.cfg.r1Ready →
    s.rx = triesAnswers s.cfg tries0 ++ (cmdAnswers s.cfg e0 ++
      (triesAnswers s.cfg tries1 ++ (cmdAnswers s.cfg e1 ++ rest))) →
    s.ticks = t :: (tries0.map Prod.snd ++ (tries1.map Prod.snd ++ restT)) →
    let w0 := frameWord s.cfg s.cfg.cmdReset 0#32
    let w1 := frameWord s.cfg s.cfg.cmdLegacyInit 0#32
    exec (.initCard arg) s = .next { s with
      errorCode := 0#8, errorData := 0#8, cs := false, ok := true, busy := false, opReg := 1#3, argReg := arg,
      r1 := e1.r, polls := e1.polls.length + 1, t0 := t % 2 ^ s.cfg.tickW, pos := .idle, clockSlow := true,
      rx := rest, ticks := restT,
      hist := (initEvents s.cfg t ++ (triesEvents s.cfg w0 tries0 ++ (cmdEvents s.cfg w0 e0 ++
        (triesEvents s.cfg w1 tries1 ++ (cmdEvents s.cfg w1 e1 ++ [Event.desel]))))).reverse ++ s.hist }

/-- `initialize`, ACMD, succeeds: as above, each attempt of phase 2 the pair CMD55 then ACMD41, the prefix answered in any
way (R104, R131 to R135). -/
def Obligations.InitializeAcmdSucceeds : Prop :=
  ∀ (s : State) (arg : Word) (t : Nat) (tries0 : List (Exchange × Nat)) (tries1 : List (Exchange × Exchange × Nat))
    (e0 p1 e1 : Exchange) (rest : List Byte) (restT : List Nat),
    s.busy = false → s.host = [] → s.cfg.initStrategy = .acmd →
    Retries s.cfg s.cfg.r1Idle t tries0 → AnswersCmd s.cfg e0 → e0.r = s.cfg.r1Idle →
    PairRetries s.cfg s.cfg.r1Ready t tries1 → AnswersCmd s.cfg p1 → AnswersCmd s.cfg e1 → e1.r = s.cfg.r1Ready →
    s.rx = triesAnswers s.cfg tries0 ++ (cmdAnswers s.cfg e0 ++
      (pairAnswers s.cfg tries1 ++ (cmdAnswers s.cfg p1 ++ (cmdAnswers s.cfg e1 ++ rest)))) →
    s.ticks = t :: (tries0.map Prod.snd ++ (tries1.map (fun a => a.2.2) ++ restT)) →
    let w0 := frameWord s.cfg s.cfg.cmdReset 0#32
    let w := frameWord s.cfg s.cfg.cmdAppPrefix 0#32
    let w1 := frameWord s.cfg s.cfg.acmdInit 0#32
    exec (.initCard arg) s = .next { s with
      errorCode := 0#8, errorData := 0#8, cs := false, ok := true, busy := false, opReg := 1#3, argReg := arg,
      r1 := e1.r, polls := e1.polls.length + 1, t0 := t % 2 ^ s.cfg.tickW, pos := .idle, clockSlow := true,
      rx := rest, ticks := restT,
      hist := (initEvents s.cfg t ++ (triesEvents s.cfg w0 tries0 ++ (cmdEvents s.cfg w0 e0 ++
        (pairEvents s.cfg w w1 tries1 ++ (cmdEvents s.cfg w p1 ++ (cmdEvents s.cfg w1 e1 ++ [Event.desel])))))).reverse ++
        s.hist }

/-- `initialize` gives up in phase 1: the last attempt's tick is past the timeout; error 1 with that response (R132). -/
def Obligations.InitializeResetTimeout : Prop :=
  ∀ (s : State) (arg : Word) (t x : Nat) (tries : List (Exchange × Nat)) (e : Exchange) (rest : List Byte)
    (restT : List Nat),
    s.busy = false → s.host = [] → Retries s.cfg s.cfg.r1Idle t tries → AnswersCmd s.cfg e → e.r ≠ s.cfg.r1Idle →
    expired s.cfg s.cfg.initTimeoutMs (x % 2 ^ s.cfg.tickW) (t % 2 ^ s.cfg.tickW) = true →
    s.rx = triesAnswers s.cfg tries ++ (cmdAnswers s.cfg e ++ rest) →
    s.ticks = t :: (tries.map Prod.snd ++ x :: restT) →
    let w0 := frameWord s.cfg s.cfg.cmdReset 0#32
    exec (.initCard arg) s = .next { s with
      errorCode := errorNumber .resetNotAcknowledged, errorData := e.r, cs := false, ok := false, busy := false,
      opReg := 1#3, argReg := arg, r1 := e.r, polls := e.polls.length + 1, t0 := t % 2 ^ s.cfg.tickW, pos := .idle,
      clockSlow := true, rx := rest, ticks := restT,
      hist := (initEvents s.cfg t ++ (triesEvents s.cfg w0 tries ++ (cmdEvents s.cfg w0 e ++
        [Event.tick (x % 2 ^ s.cfg.tickW), Event.desel]))).reverse ++ s.hist }

/-- `initialize` gives up in phase 2, under either strategy: after any number of attempts in time, each the pair under
ACMD, the time since the same start tick is past the timeout; error 3 under LEGACY and error 2 under ACMD, with the last
response, ACMD41's and not the prefix's under ACMD (R104, R133, R134). -/
def Obligations.InitializeReadyTimeout : Prop :=
  (∀ (s : State) (arg : Word) (t x : Nat) (tries0 tries1 : List (Exchange × Nat)) (e0 e1 : Exchange)
    (rest : List Byte) (restT : List Nat),
    s.busy = false → s.host = [] → s.cfg.initStrategy = .legacy →
    Retries s.cfg s.cfg.r1Idle t tries0 → AnswersCmd s.cfg e0 → e0.r = s.cfg.r1Idle →
    Retries s.cfg s.cfg.r1Ready t tries1 → AnswersCmd s.cfg e1 → e1.r ≠ s.cfg.r1Ready →
    expired s.cfg s.cfg.initTimeoutMs (x % 2 ^ s.cfg.tickW) (t % 2 ^ s.cfg.tickW) = true →
    s.rx = triesAnswers s.cfg tries0 ++ (cmdAnswers s.cfg e0 ++
      (triesAnswers s.cfg tries1 ++ (cmdAnswers s.cfg e1 ++ rest))) →
    s.ticks = t :: (tries0.map Prod.snd ++ (tries1.map Prod.snd ++ x :: restT)) →
    let w0 := frameWord s.cfg s.cfg.cmdReset 0#32
    let w1 := frameWord s.cfg s.cfg.cmdLegacyInit 0#32
    exec (.initCard arg) s = .next { s with
      errorCode := errorNumber .readyFailedLegacy, errorData := e1.r, cs := false, ok := false, busy := false,
      opReg := 1#3, argReg := arg, r1 := e1.r, polls := e1.polls.length + 1, t0 := t % 2 ^ s.cfg.tickW, pos := .idle,
      clockSlow := true, rx := rest, ticks := restT,
      hist := (initEvents s.cfg t ++ (triesEvents s.cfg w0 tries0 ++ (cmdEvents s.cfg w0 e0 ++
        (triesEvents s.cfg w1 tries1 ++ (cmdEvents s.cfg w1 e1 ++
          [Event.tick (x % 2 ^ s.cfg.tickW), Event.desel]))))).reverse ++ s.hist }) ∧
  (∀ (s : State) (arg : Word) (t x : Nat) (tries0 : List (Exchange × Nat)) (tries1 : List (Exchange × Exchange × Nat))
    (e0 p1 e1 : Exchange) (rest : List Byte) (restT : List Nat),
    s.busy = false → s.host = [] → s.cfg.initStrategy = .acmd →
    Retries s.cfg s.cfg.r1Idle t tries0 → AnswersCmd s.cfg e0 → e0.r = s.cfg.r1Idle →
    PairRetries s.cfg s.cfg.r1Ready t tries1 → AnswersCmd s.cfg p1 → AnswersCmd s.cfg e1 → e1.r ≠ s.cfg.r1Ready →
    expired s.cfg s.cfg.initTimeoutMs (x % 2 ^ s.cfg.tickW) (t % 2 ^ s.cfg.tickW) = true →
    s.rx = triesAnswers s.cfg tries0 ++ (cmdAnswers s.cfg e0 ++
      (pairAnswers s.cfg tries1 ++ (cmdAnswers s.cfg p1 ++ (cmdAnswers s.cfg e1 ++ rest)))) →
    s.ticks = t :: (tries0.map Prod.snd ++ (tries1.map (fun a => a.2.2) ++ x :: restT)) →
    let w0 := frameWord s.cfg s.cfg.cmdReset 0#32
    let w := frameWord s.cfg s.cfg.cmdAppPrefix 0#32
    let w1 := frameWord s.cfg s.cfg.acmdInit 0#32
    exec (.initCard arg) s = .next { s with
      errorCode := errorNumber .readyFailedAcmd, errorData := e1.r, cs := false, ok := false, busy := false,
      opReg := 1#3, argReg := arg, r1 := e1.r, polls := e1.polls.length + 1, t0 := t % 2 ^ s.cfg.tickW, pos := .idle,
      clockSlow := true, rx := rest, ticks := restT,
      hist := (initEvents s.cfg t ++ (triesEvents s.cfg w0 tries0 ++ (cmdEvents s.cfg w0 e0 ++
        (pairEvents s.cfg w w1 tries1 ++ (cmdEvents s.cfg w p1 ++ (cmdEvents s.cfg w1 e1 ++
          [Event.tick (x % 2 ^ s.cfg.tickW), Event.desel])))))).reverse ++ s.hist })

/-- `capacity` of a register read that succeeds: `CSDR` holds the register, `capacityOut` the formula's value, or some
value where the shift would be negative; `BUF` is not touched; `ok = 1` (R140 to R142). -/
def Obligations.CapacitySucceeds : Prop :=
  ∀ (s : State) (arg : Word) (e : Exchange) (t : Nat) (misses : List (Byte × Nat)) (payload trailer rest : List Byte)
    (restT : List Nat),
    s.busy = false → s.host = [] → s.cfg.wf = true → AnswersCmd s.cfg e → e.r = s.cfg.r1Ready →
    Misses s.cfg s.cfg.startToken s.cfg.readTimeoutMs t misses →
    payload.length = s.cfg.regLen → trailer.length = s.cfg.trailerLen →
    s.rx = cmdAnswers s.cfg e ++ (tokenAnswers s.cfg.startToken misses ++ (payload ++ (trailer ++ rest))) →
    s.ticks = t :: (misses.map Prod.snd ++ restT) →
    ∃ n free, (∀ v, csdCapacity payload = some v → n = v ∧ free = s.freeCount) ∧
    exec (.capacity arg) s = .next { s with
      capacityOut := n, freeCount := free, csdr := fillFrom s.csdr 0 payload, cs := false, ok := true, busy := false,
      opReg := 2#3, argReg := arg, r1 := e.r, polls := e.polls.length + 1, t0 := t % 2 ^ s.cfg.tickW, tokOk := true,
      idx := s.cfg.regLen, pos := .idle, rx := rest, ticks := restT,
      hist := (cmdEvents s.cfg (frameWord s.cfg s.cfg.cmdReadCsd 0#32) e ++
        (xferEvents s.cfg .csdr t misses payload trailer ++ csdReads payload)).reverse ++ s.hist }

/-- `capacity` of a rejected register read: 0, `ok = 0`, the error state unchanged (R116, R140). -/
def Obligations.CapacityRejected : Prop :=
  ∀ (s : State) (arg : Word) (e : Exchange) (rest : List Byte),
    s.busy = false → s.host = [] → AnswersCmd s.cfg e → e.r ≠ s.cfg.r1Ready → s.rx = cmdAnswers s.cfg e ++ rest →
    exec (.capacity arg) s = .next { s with
      capacityOut := 0#32, cs := false, ok := false, busy := false, opReg := 2#3, argReg := arg, r1 := e.r,
      polls := e.polls.length + 1, pos := .idle, rx := rest,
      hist := (cmdEvents s.cfg (frameWord s.cfg s.cfg.cmdReadCsd 0#32) e ++ [Event.desel]).reverse ++ s.hist }

/-- `readRegister` that succeeds: the register's bytes in `BUF` from 0 in the order received, the rest of `BUF` as before,
for every command index (R115, R145). That indices other than 9 and 10 run is the model's choice (log 17; R146 and U4 advise
a model to refuse them in claims, D20). -/
def Obligations.ReadRegisterSucceeds : Prop :=
  ∀ (s : State) (cmd : CmdIndex) (top : BitVec 26) (e : Exchange) (t : Nat) (misses : List (Byte × Nat))
    (payload trailer rest : List Byte) (restT : List Nat),
    s.busy = false → s.host = [] → s.cfg.wf = true → AnswersCmd s.cfg e → e.r = s.cfg.r1Ready →
    Misses s.cfg s.cfg.startToken s.cfg.readTimeoutMs t misses →
    payload.length = s.cfg.regLen → trailer.length = s.cfg.trailerLen →
    s.rx = cmdAnswers s.cfg e ++ (tokenAnswers s.cfg.startToken misses ++ (payload ++ (trailer ++ rest))) →
    s.ticks = t :: (misses.map Prod.snd ++ restT) →
    exec (.readRegister cmd top) s = .next { s with
      buf := fillFrom s.buf 0 payload, cs := false, ok := true, busy := false, opReg := 3#3, argReg := top ++ cmd,
      r1 := e.r, polls := e.polls.length + 1, t0 := t % 2 ^ s.cfg.tickW, tokOk := true, idx := s.cfg.regLen,
      pos := .idle, rx := rest, ticks := restT,
      hist := (cmdEvents s.cfg (frameWord s.cfg cmd 0#32) e ++
        xferEvents s.cfg .buf t misses payload trailer).reverse ++ s.hist }

/-- `readRegister` that is rejected: deselect and report failure; no error is latched, `BUF` is unchanged (R115, R116). That
indices other than 9 and 10 run is the model's choice (log 17; R146, U4, D20). -/
def Obligations.ReadRegisterRejected : Prop :=
  ∀ (s : State) (cmd : CmdIndex) (top : BitVec 26) (e : Exchange) (rest : List Byte),
    s.busy = false → s.host = [] → AnswersCmd s.cfg e → e.r ≠ s.cfg.r1Ready → s.rx = cmdAnswers s.cfg e ++ rest →
    exec (.readRegister cmd top) s = .next { s with
      cs := false, ok := false, busy := false, opReg := 3#3, argReg := top ++ cmd, r1 := e.r,
      polls := e.polls.length + 1, pos := .idle, rx := rest,
      hist := (cmdEvents s.cfg (frameWord s.cfg cmd 0#32) e ++ [Event.desel]).reverse ++ s.hist }

/-- `readBlock` that succeeds: the block in `BUF` byte for byte, the error state as before (R120, R148). That block numbers at
or above 2^23 run, with the address truncated, is the model's choice (log 16; R149, U3, D19). -/
def Obligations.ReadBlockSucceeds : Prop :=
  ∀ (s : State) (n : Word) (e : Exchange) (t : Nat) (misses : List (Byte × Nat)) (payload trailer rest : List Byte)
    (restT : List Nat),
    s.busy = false → s.host = [] → AnswersCmd s.cfg e → e.r = s.cfg.r1Ready →
    Misses s.cfg s.cfg.startToken s.cfg.readTimeoutMs t misses →
    payload.length = s.cfg.blockLen → trailer.length = s.cfg.trailerLen →
    s.rx = cmdAnswers s.cfg e ++ (tokenAnswers s.cfg.startToken misses ++ (payload ++ (trailer ++ rest))) →
    s.ticks = t :: (misses.map Prod.snd ++ restT) →
    exec (.readBlock n) s = .next { s with
      buf := fillFrom s.buf 0 payload, cs := false, ok := true, busy := false, opReg := 4#3, argReg := n,
      r1 := e.r, polls := e.polls.length + 1, t0 := t % 2 ^ s.cfg.tickW, tokOk := true, idx := s.cfg.blockLen,
      pos := .idle, rx := rest, ticks := restT,
      hist := (cmdEvents s.cfg (frameWord s.cfg s.cfg.cmdReadBlock (n <<< s.cfg.blockShift)) e ++
        xferEvents s.cfg .buf t misses payload trailer).reverse ++ s.hist }

/-- `readBlock` that is rejected: error 5 with the response byte, `BUF` unchanged (R148, R103). That block numbers at or above
2^23 run is the model's choice (log 16; R149, U3, D19). -/
def Obligations.ReadBlockRejected : Prop :=
  ∀ (s : State) (n : Word) (e : Exchange) (rest : List Byte),
    s.busy = false → s.host = [] → AnswersCmd s.cfg e → e.r ≠ s.cfg.r1Ready → s.rx = cmdAnswers s.cfg e ++ rest →
    exec (.readBlock n) s = .next { s with
      errorCode := errorNumber .readCommandRejected, errorData := e.r, cs := false, ok := false, busy := false,
      opReg := 4#3, argReg := n, r1 := e.r, polls := e.polls.length + 1, pos := .idle, rx := rest,
      hist := (cmdEvents s.cfg (frameWord s.cfg s.cfg.cmdReadBlock (n <<< s.cfg.blockShift)) e ++ [Event.desel]).reverse ++
        s.hist }

/-- A start token that does not come in time, in each of the three reading operations, by `RD_TIMEOUT_ABORT`: abort with
`ok = 0` and the destination untouched, whatever is queued after the wait; or stream on deselected and return true; error 6
with 0 in both (R120 to R122, R140; the 0 is the spec's own, D5). That block numbers at or above 2^23 and indices other
than 9 and 10 run is the model's choice (log 16; R149, U3, D19; log 17; R146, U4, D20). -/
def Obligations.StartTokenTimeout : Prop :=
  ∀ (s : State) (n arg : Word) (cmd : CmdIndex) (top : BitVec 26) (e : Exchange) (t x : Nat)
    (misses : List (Byte × Nat)) (b : Byte) (rest : List Byte) (restT : List Nat),
    s.busy = false → s.host = [] → AnswersCmd s.cfg e → e.r = s.cfg.r1Ready →
    Misses s.cfg s.cfg.startToken s.cfg.readTimeoutMs t misses → b ≠ s.cfg.startToken →
    expired s.cfg s.cfg.readTimeoutMs (x % 2 ^ s.cfg.tickW) (t % 2 ^ s.cfg.tickW) = true →
    s.ticks = t :: (misses.map Prod.snd ++ x :: restT) →
    let latched : State := { s with
      errorCode := errorNumber .readStartTokenTimeout, errorData := 0#8, cs := false, busy := false, r1 := e.r,
      polls := e.polls.length + 1, t0 := t % 2 ^ s.cfg.tickW, tokOk := false, pos := .idle, ticks := restT }
    let events := fun w => cmdEvents s.cfg w e ++
      (waitEvents s.cfg t misses ++ [Event.recv b, Event.tick (x % 2 ^ s.cfg.tickW), Event.desel])
    let block := frameWord s.cfg s.cfg.cmdReadBlock (n <<< s.cfg.blockShift)
    let register := frameWord s.cfg cmd 0#32
    let csd := frameWord s.cfg s.cfg.cmdReadCsd 0#32
    (s.cfg.rdTimeoutAbort = true → s.rx = cmdAnswers s.cfg e ++ (misses.map Prod.fst ++ b :: rest) →
      exec (.readBlock n) s = .next { latched with
        ok := false, opReg := 4#3, argReg := n, rx := rest, hist := (events block).reverse ++ s.hist } ∧
      exec (.readRegister cmd top) s = .next { latched with
        ok := false, opReg := 3#3, argReg := top ++ cmd, rx := rest, hist := (events register).reverse ++ s.hist } ∧
      exec (.capacity arg) s = .next { latched with
        capacityOut := 0#32, ok := false, opReg := 2#3, argReg := arg, rx := rest,
        hist := (events csd).reverse ++ s.hist }) ∧
    (∀ payload trailer : List Byte, s.cfg.rdTimeoutAbort = false → trailer.length = s.cfg.trailerLen →
      s.rx = cmdAnswers s.cfg e ++ (misses.map Prod.fst ++ b :: (payload ++ (trailer ++ rest))) →
      let streamed := fun d => payloadEvents d 0 payload ++ (trailer.map Event.recv ++ [Event.desel])
      (payload.length = s.cfg.blockLen →
        exec (.readBlock n) s = .next { latched with
          buf := fillFrom s.buf 0 payload, ok := true, opReg := 4#3, argReg := n, idx := s.cfg.blockLen, rx := rest,
          hist := (events block ++ streamed .buf).reverse ++ s.hist }) ∧
      (s.cfg.wf = true → payload.length = s.cfg.regLen →
        exec (.readRegister cmd top) s = .next { latched with
          buf := fillFrom s.buf 0 payload, ok := true, opReg := 3#3, argReg := top ++ cmd, idx := s.cfg.regLen, rx := rest,
          hist := (events register ++ streamed .buf).reverse ++ s.hist }) ∧
      (s.cfg.wf = true → payload.length = s.cfg.regLen →
        ∃ m free, (∀ v, csdCapacity payload = some v → m = v ∧ free = s.freeCount) ∧
          exec (.capacity arg) s = .next { latched with
            capacityOut := m, freeCount := free, csdr := fillFrom s.csdr 0 payload, ok := true, opReg := 2#3,
            argReg := arg, idx := s.cfg.regLen, rx := rest,
            hist := (events csd ++ (streamed .csdr ++ csdReads payload)).reverse ++ s.hist }))

/-- `writeBlock` that succeeds: the frame, the token, `BUF` in order, the fillers, one data response, the busy wait;
`BUF` and the error state unchanged, for every block number, 0 included (R152 to R154). That block numbers at or above 2^23
run, with the address truncated, is the model's choice (log 16; R149, U3, D19). -/
def Obligations.WriteBlockSucceeds : Prop :=
  ∀ (s : State) (n : Word) (e : Exchange) (data : List Byte) (ack : Byte) (t : Nat) (misses : List (Byte × Nat))
    (rest : List Byte) (restT : List Nat),
    s.busy = false → s.host = [] → AnswersCmd s.cfg e → e.r = s.cfg.r1Ready →
    Holds s.buf data → data.length = s.cfg.blockLen →
    ack &&& s.cfg.dataResMask = s.cfg.dataResAccepted →
    Misses s.cfg s.cfg.idleByte s.cfg.writeTimeoutMs t misses →
    s.rx = cmdAnswers s.cfg e ++ ack :: (tokenAnswers s.cfg.idleByte misses ++ rest) →
    s.ticks = t :: (misses.map Prod.snd ++ restT) →
    exec (.writeBlock n) s = .next { s with
      cs := false, ok := true, busy := false, opReg := 5#3, argReg := n, r1 := e.r, ack := ack,
      polls := e.polls.length + 1, t0 := t % 2 ^ s.cfg.tickW, tokOk := true, idx := s.cfg.blockLen, pos := .idle,
      rx := rest, ticks := restT,
      hist := (cmdEvents s.cfg (frameWord s.cfg s.cfg.cmdWriteBlock (n <<< s.cfg.blockShift)) e ++
        (Event.send s.cfg.startToken :: (dataEvents 0 data ++ (List.replicate s.cfg.trailerLen (Event.send s.cfg.fillByte) ++
          (Event.recv ack :: (waitEvents s.cfg t misses ++ [Event.recv s.cfg.idleByte, Event.desel])))))).reverse ++ s.hist }

/-- `writeBlock` that is rejected: error 4 with the response byte, no data sent (R152). That block numbers at or above 2^23
run is the model's choice (log 16; R149, U3, D19). -/
def Obligations.WriteBlockRejected : Prop :=
  ∀ (s : State) (n : Word) (e : Exchange) (rest : List Byte),
    s.busy = false → s.host = [] → AnswersCmd s.cfg e → e.r ≠ s.cfg.r1Ready → s.rx = cmdAnswers s.cfg e ++ rest →
    exec (.writeBlock n) s = .next { s with
      errorCode := errorNumber .writeCommandRejected, errorData := e.r, cs := false, ok := false, busy := false,
      opReg := 5#3, argReg := n, r1 := e.r, polls := e.polls.length + 1, pos := .idle, rx := rest,
      hist := (cmdEvents s.cfg (frameWord s.cfg s.cfg.cmdWriteBlock (n <<< s.cfg.blockShift)) e ++ [Event.desel]).reverse ++
        s.hist }

/-- `writeBlock` whose busy wait runs out returns true all the same, with error 8 and two deselects (R154 a; the error's
data byte 0 is the spec's own, D5). That block numbers at or above 2^23 run is the model's choice (log 16; R149, U3,
D19). -/
def Obligations.WriteBlockBusyTimeout : Prop :=
  ∀ (s : State) (n : Word) (e : Exchange) (data : List Byte) (ack b : Byte) (t x : Nat) (misses : List (Byte × Nat))
    (rest : List Byte) (restT : List Nat),
    s.busy = false → s.host = [] → AnswersCmd s.cfg e → e.r = s.cfg.r1Ready →
    Holds s.buf data → data.length = s.cfg.blockLen →
    ack &&& s.cfg.dataResMask = s.cfg.dataResAccepted →
    Misses s.cfg s.cfg.idleByte s.cfg.writeTimeoutMs t misses → b ≠ s.cfg.idleByte →
    expired s.cfg s.cfg.writeTimeoutMs (x % 2 ^ s.cfg.tickW) (t % 2 ^ s.cfg.tickW) = true →
    s.rx = cmdAnswers s.cfg e ++ ack :: (misses.map Prod.fst ++ b :: rest) →
    s.ticks = t :: (misses.map Prod.snd ++ x :: restT) →
    exec (.writeBlock n) s = .next { s with
      errorCode := errorNumber .writeBusyTimeout, errorData := 0#8, cs := false, ok := true, busy := false,
      opReg := 5#3, argReg := n, r1 := e.r, ack := ack, polls := e.polls.length + 1, t0 := t % 2 ^ s.cfg.tickW,
      tokOk := false, idx := s.cfg.blockLen, pos := .idle, rx := rest, ticks := restT,
      hist := (cmdEvents s.cfg (frameWord s.cfg s.cfg.cmdWriteBlock (n <<< s.cfg.blockShift)) e ++
        (Event.send s.cfg.startToken :: (dataEvents 0 data ++ (List.replicate s.cfg.trailerLen (Event.send s.cfg.fillByte) ++
          (Event.recv ack :: (waitEvents s.cfg t misses ++
            [Event.recv b, Event.tick (x % 2 ^ s.cfg.tickW), Event.desel, Event.desel])))))).reverse ++ s.hist }

/-- `writeBlock` of a `BUF` with a cell nothing has written stops there: "a model faults on reading them" (R28, R209, U12).
How the model holds a cell without a value is log 7; that block numbers at or above 2^23 run is the model's choice (log 16;
R149, U3, D19). -/
def Obligations.WriteBlockOfUnwrittenBuf : Prop :=
  ∀ (s : State) (n : Word) (e : Exchange) (data : List Byte) (rest : List Byte),
    s.busy = false → s.host = [] → AnswersCmd s.cfg e → e.r = s.cfg.r1Ready → s.rx = cmdAnswers s.cfg e ++ rest →
    Holds s.buf data → data.length < s.cfg.blockLen → readCell s.buf data.length = none →
    exec (.writeBlock n) s = .fault (.unwrittenCell .buf data.length)
end

