-- ==== Sys2Proof/Laws/Memory.lean ====
section
/-! SUPPORT. The byte memories: a read after a write, the canonical form, and a payload written in order. -/

namespace Sys2Proof.Machine

@[simp] theorem readCell_nil (a : Nat) : readCell [] a = none := rfl

theorem readCell_cons (c : Host.Cell) (m : Memory) (a : Nat) :
    readCell (c :: m) a = if c.1 = a then some c.2 else readCell m a := rfl

/-- A cell below every listed address holds no value. -/
theorem readCell_eq_none_of_lt {m : Memory} {a : Nat} (h : ∀ c ∈ m, a < c.1) : readCell m a = none := by
  induction m with
  | nil => rfl
  | cons c m ih =>
    have hc := h c (by simp)
    rw [readCell_cons, if_neg (by omega)]
    exact ih fun d hd => h d (by simp [hd])

/-- Reading the cell just written gives the value written. -/
theorem readCell_writeCell_same (m : Memory) (a : Nat) (b : Byte) : readCell (writeCell m a b) a = some b := by
  induction m with
  | nil => simp [writeCell, readCell_cons]
  | cons c m ih =>
    unfold writeCell
    split
    · simp [readCell_cons]
    · split
      · simp [readCell_cons]
      · rw [readCell_cons, if_neg (by omega)]
        exact ih

/-- A write leaves every other cell alone. -/
theorem readCell_writeCell_other (m : Memory) {a i : Nat} (b : Byte) (h : i ≠ a) :
    readCell (writeCell m a b) i = readCell m i := by
  induction m with
  | nil => simp [writeCell, readCell_cons, h.symm]
  | cons c m ih =>
    unfold writeCell
    split
    · simp [readCell_cons, h.symm]
    · split
      · subst_vars
        simp [readCell_cons, h.symm]
      · rw [readCell_cons, readCell_cons, ih]

/-- A read after a write, both cases. -/
theorem readCell_writeCell (m : Memory) (a i : Nat) (b : Byte) :
    readCell (writeCell m a b) i = if i = a then some b else readCell m i := by
  split
  · subst_vars
    exact readCell_writeCell_same ..
  · exact readCell_writeCell_other _ _ ‹_›

/-- The cells of a memory after a write are the written one and old ones. -/
theorem mem_writeCell {m : Memory} {a : Nat} {b : Byte} {c : Host.Cell} (h : c ∈ writeCell m a b) : c = (a, b) ∨ c ∈ m := by
  induction m with
  | nil => simpa [writeCell] using h
  | cons d m ih =>
    unfold writeCell at h
    split at h
    · simpa using h
    · split at h
      · rcases List.mem_cons.1 h with h | h
        · exact .inl h
        · exact .inr (by simp [h])
      · rcases List.mem_cons.1 h with h | h
        · exact .inr (by simp [h])
        · rcases ih h with h | h
          · exact .inl h
          · exact .inr (by simp [h])

/-- A bound on the addresses outlives a write within it. -/
theorem writeCell_bound {m : Memory} {a n : Nat} {b : Byte} (hm : ∀ c ∈ m, c.1 < n) (ha : a < n) :
    ∀ c ∈ writeCell m a b, c.1 < n := by
  intro c hc
  rcases mem_writeCell hc with rfl | h
  · exact ha
  · exact hm c h

/-- A write keeps the canonical form. -/
theorem wf_writeCell {m : Memory} (h : m.wf) (a : Nat) (b : Byte) : (writeCell m a b).wf := by
  induction m with
  | nil => simp [writeCell]
  | cons c m ih =>
    obtain ⟨hc, hm⟩ := List.pairwise_cons.1 h
    unfold writeCell
    split
    · refine List.pairwise_cons.2 ⟨?_, h⟩
      intro d hd
      rcases List.mem_cons.1 hd with rfl | hd
      · assumption
      · have := hc d hd
        simp only
        omega
    · split
      · subst_vars
        exact List.pairwise_cons.2 ⟨hc, hm⟩
      · refine List.pairwise_cons.2 ⟨?_, ih hm⟩
        intro d hd
        rcases mem_writeCell hd with rfl | hd
        · simp only
          omega
        · exact hc d hd

/-- A payload keeps the canonical form. -/
theorem wf_fillFrom {m : Memory} (h : m.wf) (i : Nat) (bs : List Byte) : (fillFrom m i bs).wf := by
  induction bs generalizing m i with
  | nil => exact h
  | cons b bs ih => exact ih (wf_writeCell h i b) _

/-- The memories of the state right after reset are canonical. -/
theorem wf_reset (c : Config) : (State.resetOf c).buf.wf ∧ (State.resetOf c).csdr.wf :=
  ⟨List.Pairwise.nil, List.Pairwise.nil⟩

/-! ## A payload -/

@[simp] theorem fillFrom_nil (m : Memory) (i : Nat) : fillFrom m i [] = m := rfl

@[simp] theorem fillFrom_cons (m : Memory) (i : Nat) (b : Byte) (bs : List Byte) :
    fillFrom m i (b :: bs) = fillFrom (writeCell m i b) (i + 1) bs := rfl

/-- A payload leaves the cells below its first index alone. -/
theorem readCell_fillFrom_below (bs : List Byte) (m : Memory) {i a : Nat} (h : a < i) :
    readCell (fillFrom m i bs) a = readCell m a := by
  induction bs generalizing m i with
  | nil => rfl
  | cons b bs ih => rw [fillFrom_cons, ih _ (by omega), readCell_writeCell_other _ _ (by omega)]

end Sys2Proof.Machine
end

