-- ==== Sys2Proof/Laws/State.lean ====
section
/-! SUPPORT. What each named update of the state leaves in each field. -/

namespace Sys2Proof.Machine

variable (s : State)

/-! ## `goto` -/

@[simp] theorem goto_cfg (p : Pos) : (goto p s).cfg = s.cfg := rfl
@[simp] theorem goto_errorCode (p : Pos) : (goto p s).errorCode = s.errorCode := rfl
@[simp] theorem goto_errorData (p : Pos) : (goto p s).errorData = s.errorData := rfl
@[simp] theorem goto_cs (p : Pos) : (goto p s).cs = s.cs := rfl
@[simp] theorem goto_busy (p : Pos) : (goto p s).busy = s.busy := rfl
@[simp] theorem goto_ok (p : Pos) : (goto p s).ok = s.ok := rfl
@[simp] theorem goto_capacityOut (p : Pos) : (goto p s).capacityOut = s.capacityOut := rfl
@[simp] theorem goto_buf (p : Pos) : (goto p s).buf = s.buf := rfl
@[simp] theorem goto_csdr (p : Pos) : (goto p s).csdr = s.csdr := rfl
@[simp] theorem goto_opReg (p : Pos) : (goto p s).opReg = s.opReg := rfl
@[simp] theorem goto_argReg (p : Pos) : (goto p s).argReg = s.argReg := rfl
@[simp] theorem goto_r1 (p : Pos) : (goto p s).r1 = s.r1 := rfl
@[simp] theorem goto_ack (p : Pos) : (goto p s).ack = s.ack := rfl
@[simp] theorem goto_t0 (p : Pos) : (goto p s).t0 = s.t0 := rfl
@[simp] theorem goto_polls (p : Pos) : (goto p s).polls = s.polls := rfl
@[simp] theorem goto_idx (p : Pos) : (goto p s).idx = s.idx := rfl
@[simp] theorem goto_tokOk (p : Pos) : (goto p s).tokOk = s.tokOk := rfl
@[simp] theorem goto_pos (p : Pos) : (goto p s).pos = p := rfl
@[simp] theorem goto_clockSlow (p : Pos) : (goto p s).clockSlow = s.clockSlow := rfl
@[simp] theorem goto_rx (p : Pos) : (goto p s).rx = s.rx := rfl
@[simp] theorem goto_ticks (p : Pos) : (goto p s).ticks = s.ticks := rfl
@[simp] theorem goto_host (p : Pos) : (goto p s).host = s.host := rfl
@[simp] theorem goto_hist (p : Pos) : (goto p s).hist = s.hist := rfl
@[simp] theorem goto_freeCount (p : Pos) : (goto p s).freeCount = s.freeCount := rfl

/-! ## `log` -/

@[simp] theorem log_cfg (e : Event) : (log e s).cfg = s.cfg := rfl
@[simp] theorem log_errorCode (e : Event) : (log e s).errorCode = s.errorCode := rfl
@[simp] theorem log_errorData (e : Event) : (log e s).errorData = s.errorData := rfl
@[simp] theorem log_cs (e : Event) : (log e s).cs = s.cs := rfl
@[simp] theorem log_busy (e : Event) : (log e s).busy = s.busy := rfl
@[simp] theorem log_ok (e : Event) : (log e s).ok = s.ok := rfl
@[simp] theorem log_capacityOut (e : Event) : (log e s).capacityOut = s.capacityOut := rfl
@[simp] theorem log_buf (e : Event) : (log e s).buf = s.buf := rfl
@[simp] theorem log_csdr (e : Event) : (log e s).csdr = s.csdr := rfl
@[simp] theorem log_opReg (e : Event) : (log e s).opReg = s.opReg := rfl
@[simp] theorem log_argReg (e : Event) : (log e s).argReg = s.argReg := rfl
@[simp] theorem log_r1 (e : Event) : (log e s).r1 = s.r1 := rfl
@[simp] theorem log_ack (e : Event) : (log e s).ack = s.ack := rfl
@[simp] theorem log_t0 (e : Event) : (log e s).t0 = s.t0 := rfl
@[simp] theorem log_polls (e : Event) : (log e s).polls = s.polls := rfl
@[simp] theorem log_idx (e : Event) : (log e s).idx = s.idx := rfl
@[simp] theorem log_tokOk (e : Event) : (log e s).tokOk = s.tokOk := rfl
@[simp] theorem log_pos (e : Event) : (log e s).pos = s.pos := rfl
@[simp] theorem log_clockSlow (e : Event) : (log e s).clockSlow = s.clockSlow := rfl
@[simp] theorem log_rx (e : Event) : (log e s).rx = s.rx := rfl
@[simp] theorem log_ticks (e : Event) : (log e s).ticks = s.ticks := rfl
@[simp] theorem log_host (e : Event) : (log e s).host = s.host := rfl
@[simp] theorem log_hist (e : Event) : (log e s).hist = e :: s.hist := rfl
@[simp] theorem log_freeCount (e : Event) : (log e s).freeCount = s.freeCount := rfl

/-! ## `complete` -/

@[simp] theorem complete_cfg (v : Bool) : (complete v s).cfg = s.cfg := rfl
@[simp] theorem complete_errorCode (v : Bool) : (complete v s).errorCode = s.errorCode := rfl
@[simp] theorem complete_errorData (v : Bool) : (complete v s).errorData = s.errorData := rfl
@[simp] theorem complete_cs (v : Bool) : (complete v s).cs = s.cs := rfl
@[simp] theorem complete_busy (v : Bool) : (complete v s).busy = false := rfl
@[simp] theorem complete_ok (v : Bool) : (complete v s).ok = v := rfl
@[simp] theorem complete_capacityOut (v : Bool) : (complete v s).capacityOut = s.capacityOut := rfl
@[simp] theorem complete_buf (v : Bool) : (complete v s).buf = s.buf := rfl
@[simp] theorem complete_csdr (v : Bool) : (complete v s).csdr = s.csdr := rfl
@[simp] theorem complete_opReg (v : Bool) : (complete v s).opReg = s.opReg := rfl
@[simp] theorem complete_argReg (v : Bool) : (complete v s).argReg = s.argReg := rfl
@[simp] theorem complete_r1 (v : Bool) : (complete v s).r1 = s.r1 := rfl
@[simp] theorem complete_ack (v : Bool) : (complete v s).ack = s.ack := rfl
@[simp] theorem complete_t0 (v : Bool) : (complete v s).t0 = s.t0 := rfl
@[simp] theorem complete_polls (v : Bool) : (complete v s).polls = s.polls := rfl
@[simp] theorem complete_idx (v : Bool) : (complete v s).idx = s.idx := rfl
@[simp] theorem complete_tokOk (v : Bool) : (complete v s).tokOk = s.tokOk := rfl
@[simp] theorem complete_pos (v : Bool) : (complete v s).pos = .idle := rfl
@[simp] theorem complete_clockSlow (v : Bool) : (complete v s).clockSlow = s.clockSlow := rfl
@[simp] theorem complete_rx (v : Bool) : (complete v s).rx = s.rx := rfl
@[simp] theorem complete_ticks (v : Bool) : (complete v s).ticks = s.ticks := rfl
@[simp] theorem complete_host (v : Bool) : (complete v s).host = s.host := rfl
@[simp] theorem complete_hist (v : Bool) : (complete v s).hist = s.hist := rfl
@[simp] theorem complete_freeCount (v : Bool) : (complete v s).freeCount = s.freeCount := rfl

/-! ## `setTokOk` -/

@[simp] theorem setTokOk_cfg (v : Bool) : (setTokOk v s).cfg = s.cfg := rfl
@[simp] theorem setTokOk_errorCode (v : Bool) : (setTokOk v s).errorCode = s.errorCode := rfl
@[simp] theorem setTokOk_errorData (v : Bool) : (setTokOk v s).errorData = s.errorData := rfl
@[simp] theorem setTokOk_cs (v : Bool) : (setTokOk v s).cs = s.cs := rfl
@[simp] theorem setTokOk_busy (v : Bool) : (setTokOk v s).busy = s.busy := rfl
@[simp] theorem setTokOk_ok (v : Bool) : (setTokOk v s).ok = s.ok := rfl
@[simp] theorem setTokOk_capacityOut (v : Bool) : (setTokOk v s).capacityOut = s.capacityOut := rfl
@[simp] theorem setTokOk_buf (v : Bool) : (setTokOk v s).buf = s.buf := rfl
@[simp] theorem setTokOk_csdr (v : Bool) : (setTokOk v s).csdr = s.csdr := rfl
@[simp] theorem setTokOk_opReg (v : Bool) : (setTokOk v s).opReg = s.opReg := rfl
@[simp] theorem setTokOk_argReg (v : Bool) : (setTokOk v s).argReg = s.argReg := rfl
@[simp] theorem setTokOk_r1 (v : Bool) : (setTokOk v s).r1 = s.r1 := rfl
@[simp] theorem setTokOk_ack (v : Bool) : (setTokOk v s).ack = s.ack := rfl
@[simp] theorem setTokOk_t0 (v : Bool) : (setTokOk v s).t0 = s.t0 := rfl
@[simp] theorem setTokOk_polls (v : Bool) : (setTokOk v s).polls = s.polls := rfl
@[simp] theorem setTokOk_idx (v : Bool) : (setTokOk v s).idx = s.idx := rfl
@[simp] theorem setTokOk_tokOk (v : Bool) : (setTokOk v s).tokOk = v := rfl
@[simp] theorem setTokOk_pos (v : Bool) : (setTokOk v s).pos = s.pos := rfl
@[simp] theorem setTokOk_clockSlow (v : Bool) : (setTokOk v s).clockSlow = s.clockSlow := rfl
@[simp] theorem setTokOk_rx (v : Bool) : (setTokOk v s).rx = s.rx := rfl
@[simp] theorem setTokOk_ticks (v : Bool) : (setTokOk v s).ticks = s.ticks := rfl
@[simp] theorem setTokOk_host (v : Bool) : (setTokOk v s).host = s.host := rfl
@[simp] theorem setTokOk_hist (v : Bool) : (setTokOk v s).hist = s.hist := rfl
@[simp] theorem setTokOk_freeCount (v : Bool) : (setTokOk v s).freeCount = s.freeCount := rfl

/-! ## `tSel` -/

@[simp] theorem tSel_cfg : (tSel s).cfg = s.cfg := rfl
@[simp] theorem tSel_errorCode : (tSel s).errorCode = s.errorCode := rfl
@[simp] theorem tSel_errorData : (tSel s).errorData = s.errorData := rfl
@[simp] theorem tSel_cs : (tSel s).cs = true := rfl
@[simp] theorem tSel_busy : (tSel s).busy = s.busy := rfl
@[simp] theorem tSel_ok : (tSel s).ok = s.ok := rfl
@[simp] theorem tSel_capacityOut : (tSel s).capacityOut = s.capacityOut := rfl
@[simp] theorem tSel_buf : (tSel s).buf = s.buf := rfl
@[simp] theorem tSel_csdr : (tSel s).csdr = s.csdr := rfl
@[simp] theorem tSel_opReg : (tSel s).opReg = s.opReg := rfl
@[simp] theorem tSel_argReg : (tSel s).argReg = s.argReg := rfl
@[simp] theorem tSel_r1 : (tSel s).r1 = s.r1 := rfl
@[simp] theorem tSel_ack : (tSel s).ack = s.ack := rfl
@[simp] theorem tSel_t0 : (tSel s).t0 = s.t0 := rfl
@[simp] theorem tSel_polls : (tSel s).polls = s.polls := rfl
@[simp] theorem tSel_idx : (tSel s).idx = s.idx := rfl
@[simp] theorem tSel_tokOk : (tSel s).tokOk = s.tokOk := rfl
@[simp] theorem tSel_pos : (tSel s).pos = s.pos := rfl
@[simp] theorem tSel_clockSlow : (tSel s).clockSlow = s.clockSlow := rfl
@[simp] theorem tSel_rx : (tSel s).rx = s.rx := rfl
@[simp] theorem tSel_ticks : (tSel s).ticks = s.ticks := rfl
@[simp] theorem tSel_host : (tSel s).host = s.host := rfl
@[simp] theorem tSel_hist : (tSel s).hist = .sel :: s.hist := rfl
@[simp] theorem tSel_freeCount : (tSel s).freeCount = s.freeCount := rfl

/-! ## `tDesel` -/

@[simp] theorem tDesel_cfg : (tDesel s).cfg = s.cfg := rfl
@[simp] theorem tDesel_errorCode : (tDesel s).errorCode = s.errorCode := rfl
@[simp] theorem tDesel_errorData : (tDesel s).errorData = s.errorData := rfl
@[simp] theorem tDesel_cs : (tDesel s).cs = false := rfl
@[simp] theorem tDesel_busy : (tDesel s).busy = s.busy := rfl
@[simp] theorem tDesel_ok : (tDesel s).ok = s.ok := rfl
@[simp] theorem tDesel_capacityOut : (tDesel s).capacityOut = s.capacityOut := rfl
@[simp] theorem tDesel_buf : (tDesel s).buf = s.buf := rfl
@[simp] theorem tDesel_csdr : (tDesel s).csdr = s.csdr := rfl
@[simp] theorem tDesel_opReg : (tDesel s).opReg = s.opReg := rfl
@[simp] theorem tDesel_argReg : (tDesel s).argReg = s.argReg := rfl
@[simp] theorem tDesel_r1 : (tDesel s).r1 = s.r1 := rfl
@[simp] theorem tDesel_ack : (tDesel s).ack = s.ack := rfl
@[simp] theorem tDesel_t0 : (tDesel s).t0 = s.t0 := rfl
@[simp] theorem tDesel_polls : (tDesel s).polls = s.polls := rfl
@[simp] theorem tDesel_idx : (tDesel s).idx = s.idx := rfl
@[simp] theorem tDesel_tokOk : (tDesel s).tokOk = s.tokOk := rfl
@[simp] theorem tDesel_pos : (tDesel s).pos = s.pos := rfl
@[simp] theorem tDesel_clockSlow : (tDesel s).clockSlow = s.clockSlow := rfl
@[simp] theorem tDesel_rx : (tDesel s).rx = s.rx := rfl
@[simp] theorem tDesel_ticks : (tDesel s).ticks = s.ticks := rfl
@[simp] theorem tDesel_host : (tDesel s).host = s.host := rfl
@[simp] theorem tDesel_hist : (tDesel s).hist = .desel :: s.hist := rfl
@[simp] theorem tDesel_freeCount : (tDesel s).freeCount = s.freeCount := rfl

/-! ## `tSlowClock` -/

@[simp] theorem tSlowClock_cfg : (tSlowClock s).cfg = s.cfg := rfl
@[simp] theorem tSlowClock_errorCode : (tSlowClock s).errorCode = s.errorCode := rfl
@[simp] theorem tSlowClock_errorData : (tSlowClock s).errorData = s.errorData := rfl
@[simp] theorem tSlowClock_cs : (tSlowClock s).cs = s.cs := rfl
@[simp] theorem tSlowClock_busy : (tSlowClock s).busy = s.busy := rfl
@[simp] theorem tSlowClock_ok : (tSlowClock s).ok = s.ok := rfl
@[simp] theorem tSlowClock_capacityOut : (tSlowClock s).capacityOut = s.capacityOut := rfl
@[simp] theorem tSlowClock_buf : (tSlowClock s).buf = s.buf := rfl
@[simp] theorem tSlowClock_csdr : (tSlowClock s).csdr = s.csdr := rfl
@[simp] theorem tSlowClock_opReg : (tSlowClock s).opReg = s.opReg := rfl
@[simp] theorem tSlowClock_argReg : (tSlowClock s).argReg = s.argReg := rfl
@[simp] theorem tSlowClock_r1 : (tSlowClock s).r1 = s.r1 := rfl
@[simp] theorem tSlowClock_ack : (tSlowClock s).ack = s.ack := rfl
@[simp] theorem tSlowClock_t0 : (tSlowClock s).t0 = s.t0 := rfl
@[simp] theorem tSlowClock_polls : (tSlowClock s).polls = s.polls := rfl
@[simp] theorem tSlowClock_idx : (tSlowClock s).idx = s.idx := rfl
@[simp] theorem tSlowClock_tokOk : (tSlowClock s).tokOk = s.tokOk := rfl
@[simp] theorem tSlowClock_pos : (tSlowClock s).pos = s.pos := rfl
@[simp] theorem tSlowClock_clockSlow : (tSlowClock s).clockSlow = true := rfl
@[simp] theorem tSlowClock_rx : (tSlowClock s).rx = s.rx := rfl
@[simp] theorem tSlowClock_ticks : (tSlowClock s).ticks = s.ticks := rfl
@[simp] theorem tSlowClock_host : (tSlowClock s).host = s.host := rfl
@[simp] theorem tSlowClock_hist : (tSlowClock s).hist = .slowClock :: s.hist := rfl
@[simp] theorem tSlowClock_freeCount : (tSlowClock s).freeCount = s.freeCount := rfl

/-! ## `tSend` -/

@[simp] theorem tSend_cfg (b : Byte) : (tSend b s).cfg = s.cfg := rfl
@[simp] theorem tSend_errorCode (b : Byte) : (tSend b s).errorCode = s.errorCode := rfl
@[simp] theorem tSend_errorData (b : Byte) : (tSend b s).errorData = s.errorData := rfl
@[simp] theorem tSend_cs (b : Byte) : (tSend b s).cs = s.cs := rfl
@[simp] theorem tSend_busy (b : Byte) : (tSend b s).busy = s.busy := rfl
@[simp] theorem tSend_ok (b : Byte) : (tSend b s).ok = s.ok := rfl
@[simp] theorem tSend_capacityOut (b : Byte) : (tSend b s).capacityOut = s.capacityOut := rfl
@[simp] theorem tSend_buf (b : Byte) : (tSend b s).buf = s.buf := rfl
@[simp] theorem tSend_csdr (b : Byte) : (tSend b s).csdr = s.csdr := rfl
@[simp] theorem tSend_opReg (b : Byte) : (tSend b s).opReg = s.opReg := rfl
@[simp] theorem tSend_argReg (b : Byte) : (tSend b s).argReg = s.argReg := rfl
@[simp] theorem tSend_r1 (b : Byte) : (tSend b s).r1 = s.r1 := rfl
@[simp] theorem tSend_ack (b : Byte) : (tSend b s).ack = s.ack := rfl
@[simp] theorem tSend_t0 (b : Byte) : (tSend b s).t0 = s.t0 := rfl
@[simp] theorem tSend_polls (b : Byte) : (tSend b s).polls = s.polls := rfl
@[simp] theorem tSend_idx (b : Byte) : (tSend b s).idx = s.idx := rfl
@[simp] theorem tSend_tokOk (b : Byte) : (tSend b s).tokOk = s.tokOk := rfl
@[simp] theorem tSend_pos (b : Byte) : (tSend b s).pos = s.pos := rfl
@[simp] theorem tSend_clockSlow (b : Byte) : (tSend b s).clockSlow = s.clockSlow := rfl
@[simp] theorem tSend_rx (b : Byte) : (tSend b s).rx = s.rx := rfl
@[simp] theorem tSend_ticks (b : Byte) : (tSend b s).ticks = s.ticks := rfl
@[simp] theorem tSend_host (b : Byte) : (tSend b s).host = s.host := rfl
@[simp] theorem tSend_hist (b : Byte) : (tSend b s).hist = .send b :: s.hist := rfl
@[simp] theorem tSend_freeCount (b : Byte) : (tSend b s).freeCount = s.freeCount := rfl

/-! ## `raiseLatch` -/

@[simp] theorem raiseLatch_cfg (e : ErrorName) (d : Byte) : (raiseLatch e d s).cfg = s.cfg := rfl
@[simp] theorem raiseLatch_errorCode (e : ErrorName) (d : Byte) : (raiseLatch e d s).errorCode = errorNumber e := rfl
@[simp] theorem raiseLatch_errorData (e : ErrorName) (d : Byte) : (raiseLatch e d s).errorData = d := rfl
@[simp] theorem raiseLatch_cs (e : ErrorName) (d : Byte) : (raiseLatch e d s).cs = false := rfl
@[simp] theorem raiseLatch_busy (e : ErrorName) (d : Byte) : (raiseLatch e d s).busy = s.busy := rfl
@[simp] theorem raiseLatch_ok (e : ErrorName) (d : Byte) : (raiseLatch e d s).ok = s.ok := rfl
@[simp] theorem raiseLatch_capacityOut (e : ErrorName) (d : Byte) : (raiseLatch e d s).capacityOut = s.capacityOut := rfl
@[simp] theorem raiseLatch_buf (e : ErrorName) (d : Byte) : (raiseLatch e d s).buf = s.buf := rfl
@[simp] theorem raiseLatch_csdr (e : ErrorName) (d : Byte) : (raiseLatch e d s).csdr = s.csdr := rfl
@[simp] theorem raiseLatch_opReg (e : ErrorName) (d : Byte) : (raiseLatch e d s).opReg = s.opReg := rfl
@[simp] theorem raiseLatch_argReg (e : ErrorName) (d : Byte) : (raiseLatch e d s).argReg = s.argReg := rfl
@[simp] theorem raiseLatch_r1 (e : ErrorName) (d : Byte) : (raiseLatch e d s).r1 = s.r1 := rfl
@[simp] theorem raiseLatch_ack (e : ErrorName) (d : Byte) : (raiseLatch e d s).ack = s.ack := rfl
@[simp] theorem raiseLatch_t0 (e : ErrorName) (d : Byte) : (raiseLatch e d s).t0 = s.t0 := rfl
@[simp] theorem raiseLatch_polls (e : ErrorName) (d : Byte) : (raiseLatch e d s).polls = s.polls := rfl
@[simp] theorem raiseLatch_idx (e : ErrorName) (d : Byte) : (raiseLatch e d s).idx = s.idx := rfl
@[simp] theorem raiseLatch_tokOk (e : ErrorName) (d : Byte) : (raiseLatch e d s).tokOk = s.tokOk := rfl
@[simp] theorem raiseLatch_pos (e : ErrorName) (d : Byte) : (raiseLatch e d s).pos = s.pos := rfl
@[simp] theorem raiseLatch_clockSlow (e : ErrorName) (d : Byte) : (raiseLatch e d s).clockSlow = s.clockSlow := rfl
@[simp] theorem raiseLatch_rx (e : ErrorName) (d : Byte) : (raiseLatch e d s).rx = s.rx := rfl
@[simp] theorem raiseLatch_ticks (e : ErrorName) (d : Byte) : (raiseLatch e d s).ticks = s.ticks := rfl
@[simp] theorem raiseLatch_host (e : ErrorName) (d : Byte) : (raiseLatch e d s).host = s.host := rfl
@[simp] theorem raiseLatch_hist (e : ErrorName) (d : Byte) : (raiseLatch e d s).hist = .desel :: s.hist := rfl
@[simp] theorem raiseLatch_freeCount (e : ErrorName) (d : Byte) : (raiseLatch e d s).freeCount = s.freeCount := rfl

/-! ## `clearError` -/

@[simp] theorem clearError_cfg : (clearError s).cfg = s.cfg := rfl
@[simp] theorem clearError_errorCode : (clearError s).errorCode = 0#8 := rfl
@[simp] theorem clearError_errorData : (clearError s).errorData = 0#8 := rfl
@[simp] theorem clearError_cs : (clearError s).cs = s.cs := rfl
@[simp] theorem clearError_busy : (clearError s).busy = s.busy := rfl
@[simp] theorem clearError_ok : (clearError s).ok = s.ok := rfl
@[simp] theorem clearError_capacityOut : (clearError s).capacityOut = s.capacityOut := rfl
@[simp] theorem clearError_buf : (clearError s).buf = s.buf := rfl
@[simp] theorem clearError_csdr : (clearError s).csdr = s.csdr := rfl
@[simp] theorem clearError_opReg : (clearError s).opReg = s.opReg := rfl
@[simp] theorem clearError_argReg : (clearError s).argReg = s.argReg := rfl
@[simp] theorem clearError_r1 : (clearError s).r1 = s.r1 := rfl
@[simp] theorem clearError_ack : (clearError s).ack = s.ack := rfl
@[simp] theorem clearError_t0 : (clearError s).t0 = s.t0 := rfl
@[simp] theorem clearError_polls : (clearError s).polls = s.polls := rfl
@[simp] theorem clearError_idx : (clearError s).idx = s.idx := rfl
@[simp] theorem clearError_tokOk : (clearError s).tokOk = s.tokOk := rfl
@[simp] theorem clearError_pos : (clearError s).pos = s.pos := rfl
@[simp] theorem clearError_clockSlow : (clearError s).clockSlow = s.clockSlow := rfl
@[simp] theorem clearError_rx : (clearError s).rx = s.rx := rfl
@[simp] theorem clearError_ticks : (clearError s).ticks = s.ticks := rfl
@[simp] theorem clearError_host : (clearError s).host = s.host := rfl
@[simp] theorem clearError_hist : (clearError s).hist = s.hist := rfl
@[simp] theorem clearError_freeCount : (clearError s).freeCount = s.freeCount := rfl

/-! ## `accept` -/

@[simp] theorem accept_cfg (op : BitVec 3) (arg : Word) : (accept op arg s).cfg = s.cfg := rfl
@[simp] theorem accept_errorCode (op : BitVec 3) (arg : Word) : (accept op arg s).errorCode = s.errorCode := rfl
@[simp] theorem accept_errorData (op : BitVec 3) (arg : Word) : (accept op arg s).errorData = s.errorData := rfl
@[simp] theorem accept_cs (op : BitVec 3) (arg : Word) : (accept op arg s).cs = s.cs := rfl
@[simp] theorem accept_busy (op : BitVec 3) (arg : Word) : (accept op arg s).busy = true := rfl
@[simp] theorem accept_ok (op : BitVec 3) (arg : Word) : (accept op arg s).ok = s.ok := rfl
@[simp] theorem accept_capacityOut (op : BitVec 3) (arg : Word) : (accept op arg s).capacityOut = s.capacityOut := rfl
@[simp] theorem accept_buf (op : BitVec 3) (arg : Word) : (accept op arg s).buf = s.buf := rfl
@[simp] theorem accept_csdr (op : BitVec 3) (arg : Word) : (accept op arg s).csdr = s.csdr := rfl
@[simp] theorem accept_opReg (op : BitVec 3) (arg : Word) : (accept op arg s).opReg = op := rfl
@[simp] theorem accept_argReg (op : BitVec 3) (arg : Word) : (accept op arg s).argReg = arg := rfl
@[simp] theorem accept_r1 (op : BitVec 3) (arg : Word) : (accept op arg s).r1 = s.r1 := rfl
@[simp] theorem accept_ack (op : BitVec 3) (arg : Word) : (accept op arg s).ack = s.ack := rfl
@[simp] theorem accept_t0 (op : BitVec 3) (arg : Word) : (accept op arg s).t0 = s.t0 := rfl
@[simp] theorem accept_polls (op : BitVec 3) (arg : Word) : (accept op arg s).polls = s.polls := rfl
@[simp] theorem accept_idx (op : BitVec 3) (arg : Word) : (accept op arg s).idx = s.idx := rfl
@[simp] theorem accept_tokOk (op : BitVec 3) (arg : Word) : (accept op arg s).tokOk = s.tokOk := rfl
@[simp] theorem accept_pos (op : BitVec 3) (arg : Word) : (accept op arg s).pos = s.pos := rfl
@[simp] theorem accept_clockSlow (op : BitVec 3) (arg : Word) : (accept op arg s).clockSlow = s.clockSlow := rfl
@[simp] theorem accept_rx (op : BitVec 3) (arg : Word) : (accept op arg s).rx = s.rx := rfl
@[simp] theorem accept_ticks (op : BitVec 3) (arg : Word) : (accept op arg s).ticks = s.ticks := rfl
@[simp] theorem accept_host (op : BitVec 3) (arg : Word) : (accept op arg s).host = s.host := rfl
@[simp] theorem accept_hist (op : BitVec 3) (arg : Word) : (accept op arg s).hist = s.hist := rfl
@[simp] theorem accept_freeCount (op : BitVec 3) (arg : Word) : (accept op arg s).freeCount = s.freeCount := rfl

/-! ## `setMem` -/

@[simp] theorem setMem_cfg (d : Dest) (m : Memory) : (setMem d m s).cfg = s.cfg := by cases d <;> rfl
@[simp] theorem setMem_errorCode (d : Dest) (m : Memory) : (setMem d m s).errorCode = s.errorCode := by cases d <;> rfl
@[simp] theorem setMem_errorData (d : Dest) (m : Memory) : (setMem d m s).errorData = s.errorData := by cases d <;> rfl
@[simp] theorem setMem_cs (d : Dest) (m : Memory) : (setMem d m s).cs = s.cs := by cases d <;> rfl
@[simp] theorem setMem_busy (d : Dest) (m : Memory) : (setMem d m s).busy = s.busy := by cases d <;> rfl
@[simp] theorem setMem_ok (d : Dest) (m : Memory) : (setMem d m s).ok = s.ok := by cases d <;> rfl
@[simp] theorem setMem_capacityOut (d : Dest) (m : Memory) : (setMem d m s).capacityOut = s.capacityOut := by cases d <;> rfl
@[simp] theorem setMem_opReg (d : Dest) (m : Memory) : (setMem d m s).opReg = s.opReg := by cases d <;> rfl
@[simp] theorem setMem_argReg (d : Dest) (m : Memory) : (setMem d m s).argReg = s.argReg := by cases d <;> rfl
@[simp] theorem setMem_r1 (d : Dest) (m : Memory) : (setMem d m s).r1 = s.r1 := by cases d <;> rfl
@[simp] theorem setMem_ack (d : Dest) (m : Memory) : (setMem d m s).ack = s.ack := by cases d <;> rfl
@[simp] theorem setMem_t0 (d : Dest) (m : Memory) : (setMem d m s).t0 = s.t0 := by cases d <;> rfl
@[simp] theorem setMem_polls (d : Dest) (m : Memory) : (setMem d m s).polls = s.polls := by cases d <;> rfl
@[simp] theorem setMem_idx (d : Dest) (m : Memory) : (setMem d m s).idx = s.idx := by cases d <;> rfl
@[simp] theorem setMem_tokOk (d : Dest) (m : Memory) : (setMem d m s).tokOk = s.tokOk := by cases d <;> rfl
@[simp] theorem setMem_pos (d : Dest) (m : Memory) : (setMem d m s).pos = s.pos := by cases d <;> rfl
@[simp] theorem setMem_clockSlow (d : Dest) (m : Memory) : (setMem d m s).clockSlow = s.clockSlow := by cases d <;> rfl
@[simp] theorem setMem_rx (d : Dest) (m : Memory) : (setMem d m s).rx = s.rx := by cases d <;> rfl
@[simp] theorem setMem_ticks (d : Dest) (m : Memory) : (setMem d m s).ticks = s.ticks := by cases d <;> rfl
@[simp] theorem setMem_host (d : Dest) (m : Memory) : (setMem d m s).host = s.host := by cases d <;> rfl
@[simp] theorem setMem_hist (d : Dest) (m : Memory) : (setMem d m s).hist = s.hist := by cases d <;> rfl
@[simp] theorem setMem_freeCount (d : Dest) (m : Memory) : (setMem d m s).freeCount = s.freeCount := by cases d <;> rfl

@[simp] theorem setMem_buf_buf (m : Memory) : (setMem .buf m s).buf = m := rfl
@[simp] theorem setMem_buf_csdr (m : Memory) : (setMem .buf m s).csdr = s.csdr := rfl
@[simp] theorem setMem_csdr_csdr (m : Memory) : (setMem .csdr m s).csdr = m := rfl
@[simp] theorem setMem_csdr_buf (m : Memory) : (setMem .csdr m s).buf = s.buf := rfl
@[simp] theorem memOf_buf : memOf s .buf = s.buf := rfl
@[simp] theorem memOf_csdr : memOf s .csdr = s.csdr := rfl

end Sys2Proof.Machine
end

