-- ==== Sys2Proof/Laws/Sequencer.lean ====
section
/-! SUPPORT. What a load, an event and the computation of `capacity` can do; runs of the sequencer: what `settle` does
with a run, and the runs of CARDCMD, WAITTOKEN, XFER, a write's data and `initialize`'s attempts under answers that carry
them to their end. -/

namespace Sys2Proof.Machine

/-! ## Named operations -/

/-- No move of the host waits. -/
theorem moveWaits_false {s : State} (h : s.host = []) : moveWaits s = false := by simp [moveWaits, h]

/-- A move of the host waits. -/
theorem moveWaits_true {s : State} (h : s.host ≠ []) : moveWaits s = true := by simpa [moveWaits] using h

/-- The sends of a frame are one history while no move of the host waits. -/
theorem sendFrame_quiet {call : Call} (bs : List Byte) {s : State} (h : s.host = []) :
    sendFrame call bs s =
      { s with polls := 0, pos := .cmdPoll call, hist := (bs.map Event.send).reverse ++ s.hist } := by
  induction bs generalizing s with
  | nil => rfl
  | cons b bs ih =>
    simp only [sendFrame, moveWaits_false h, Bool.false_and, Bool.false_eq_true, if_false]
    rw [ih (by simpa using h)]
    simp [tSend, log]

/-- One byte of a frame is sent while a move of the host waits. -/
theorem sendFrame_waits {call : Call} {b : Byte} {left : List Byte} {s : State} (h : s.host ≠ []) :
    sendFrame call (b :: left) s = { s with
      polls := if left = [] then 0 else s.polls, pos := if left = [] then .cmdPoll call else .cmdSend call left,
      hist := .send b :: s.hist } := by
  cases left <;> simp [sendFrame, moveWaits_true h, goto, tSend, log]

/-- Everything the sends of a frame can do: all of them and the poll, or some and a rest. -/
theorem sendFrame_cases (call : Call) (bs : List Byte) (s : State) : ∃ sent left, bs = sent ++ left ∧
    ((left = [] ∧ sendFrame call bs s =
        { s with polls := 0, pos := .cmdPoll call, hist := (sent.map Event.send).reverse ++ s.hist }) ∨
      (left ≠ [] ∧ s.host ≠ [] ∧ sent.length = 1 ∧ sendFrame call bs s =
        { s with pos := .cmdSend call left, hist := (sent.map Event.send).reverse ++ s.hist })) := by
  by_cases h : s.host = []
  · exact ⟨bs, [], by simp, .inl ⟨rfl, sendFrame_quiet bs h⟩⟩
  · cases bs with
    | nil => exact ⟨[], [], rfl, .inl ⟨rfl, rfl⟩⟩
    | cons b left =>
      refine ⟨[b], left, rfl, ?_⟩
      rw [sendFrame_waits h]
      cases left with
      | nil => exact .inl ⟨rfl, by simp⟩
      | cons c left => exact .inr ⟨by simp, h, rfl, by simp⟩

/-- An answer that is queued. -/
theorem takeByte_cons {s : State} {b : Byte} {rest : List Byte} (h : s.rx = b :: rest) :
    takeByte s = (b, { s with rx := rest }) := by
  simp [takeByte, h]

/-- A tick that is queued. -/
theorem takeTick_cons {s : State} {t : Nat} {rest : List Nat} (h : s.ticks = t :: rest) :
    takeTick s = (t % 2 ^ s.cfg.tickW, { s with ticks := rest }) := by
  simp [takeTick, h]

/-- If a store goes on, the index was in range, and it goes on from the written state. -/
theorem storeByte_next {d : Dest} {i : Nat} {b : Byte} {s t : State} {k : State → Result}
    (h : storeByte d i b s k = .next t) :
    i < destSize s.cfg d ∧ k (log (.memWrite d i b) (setMem d (writeCell (memOf s d) i b) s)) = .next t := by
  unfold storeByte at h
  split at h
  · exact ⟨‹_›, h⟩
  · cases h

/-- If a load goes on, the cell held a value, and it goes on with it. -/
theorem loadByte_next {d : Dest} {i : Nat} {s t : State} {k : Byte → State → Result} (h : loadByte d i s k = .next t) :
    i < destSize s.cfg d ∧ ∃ b, readCell (memOf s d) i = some b ∧ k b (log (.memRead d i b) s) = .next t := by
  unfold loadByte at h
  split at h
  · split at h
    · exact ⟨‹_›, _, ‹_›, h⟩
    · cases h
  · cases h

/-- Everything a load can do. -/
theorem loadByte_cases {Q : Result → Prop} {d : Dest} {i : Nat} {s : State} {k : Byte → State → Result}
    (hk : ∀ b, i < destSize s.cfg d → readCell (memOf s d) i = some b → Q (k b (log (.memRead d i b) s)))
    (hn : i < destSize s.cfg d → readCell (memOf s d) i = none → Q (.fault (.unwrittenCell d i)))
    (ho : destSize s.cfg d ≤ i → Q (.fault (.noSuchCell d i))) : Q (loadByte d i s k) := by
  unfold loadByte
  split
  · split
    · exact hk _ ‹_› ‹_›
    · exact hn ‹_› ‹_›
  · exact ho (by omega)

/-- Everything an event of the sequencer can be: a receive, a tick read, or an event without an answer. What the first
two take off the state is in the queues and the counter of free values only. -/
theorem seqStep_cases {Q : Result → Prop} (s : State)
    (hb : awaitsByte s.pos = true → ∀ b r f, Q (onByte b { s with rx := r, freeCount := f }))
    (ht : awaitsByte s.pos = false → awaitsTick s.pos = true → ∀ t r f, t < 2 ^ s.cfg.tickW →
      Q (.next (onTick t { s with ticks := r, freeCount := f })))
    (hs : awaitsByte s.pos = false → awaitsTick s.pos = false → Q (onSilent s)) : Q (seqStep s) := by
  unfold seqStep
  split
  · unfold takeByte
    split
    · exact hb ‹_› _ _ s.freeCount
    · exact hb ‹_› _ s.rx _
  · have h1 : awaitsByte s.pos = false := by simpa using ‹¬ awaitsByte _ = true›
    split
    · unfold takeTick
      split
      · exact ht h1 ‹_› _ _ s.freeCount (Nat.mod_lt _ (Nat.two_pow_pos _))
      · exact ht h1 ‹_› _ s.ticks _ (Nat.mod_lt _ (Nat.two_pow_pos _))
    · exact hs h1 (by simpa using ‹¬ awaitsTick _ = true›)

/-- The completion of `capacity`: the formula's value where it has one, else some value; `ok = 1` (R141, R142). -/
theorem capacityDone_eq (got : List Byte) (k : Nat) : ∃ n free,
    (∀ v, fieldsCapacity got = some v → n = v ∧ free = k) ∧
      ∀ s, s.freeCount = k → capacityDone got s = complete true { s with capacityOut := n, freeCount := free } := by
  unfold capacityDone
  cases h : fieldsCapacity got with
  | some n => exact ⟨n, k, by simp, by rintro s rfl; rfl⟩
  | none => exact ⟨Config.freeCapacity k, k + 1, by simp, by rintro s rfl; rfl⟩

/-! ## `settle` -/

/-- A property that every event keeps is kept by a run of events. -/
theorem settle_keeps {P : State → Prop} (hstep : ∀ s s', P s → seqStep s = .next s' → P s') :
    ∀ (n : Nat) (s t : State), P s → settle n s = .next t → P t := by
  intro n
  induction n with
  | zero => intro s t hs h; cases h; exact hs
  | succ n ih =>
    intro s t hs h
    unfold settle at h
    split at h
    · cases h; exact hs
    · split at h
      · exact ih _ _ (hstep _ _ hs ‹_›) h
      · cases h
      · cases h

/-- `n` events from `s` to `t`, each at a position that does not stop `settle`. -/
inductive Runs : Nat → State → State → Prop where
  | refl (s : State) : Runs 0 s s
  | event {n : Nat} {s s' t : State} : settled s = false → seqStep s = .next s' → Runs n s' t → Runs (n + 1) s t

theorem Runs.trans {m n : Nat} {s t u : State} (h : Runs m s t) (h' : Runs n t u) : Runs (m + n) s u := by
  induction h with
  | refl s => simpa using h'
  | event hs he _ ih =>
    have := Runs.event hs he (ih h')
    simpa [Nat.add_right_comm] using this

theorem settle_of_settled {s : State} (h : settled s = true) (n : Nat) : settle n s = .next s := by
  cases n <;> simp [settle, h]

/-- A run that ends settled is what `settle` does, given enough events. -/
theorem Runs.settle {k n : Nat} {s t : State} (h : Runs k s t) (ht : settled t = true) (hn : k ≤ n) :
    settle n s = .next t := by
  induction h generalizing n with
  | refl s => exact settle_of_settled ht n
  | event hs he _ ih =>
    obtain ⟨n, rfl⟩ : ∃ m, n = m + 1 := ⟨n - 1, by omega⟩
    simp only [Machine.settle, hs, he]
    exact ih ht (by omega)

/-- A run that ends where the next event faults. -/
theorem Runs.settle_fault {k n : Nat} {s t : State} {f : Fault} (h : Runs k s t) (ht : settled t = false)
    (hf : seqStep t = .fault f) (hn : k < n) : Machine.settle n s = .fault f := by
  induction h generalizing n with
  | refl s =>
    obtain ⟨n, rfl⟩ : ∃ m, n = m + 1 := ⟨n - 1, by omega⟩
    simp [Machine.settle, ht, hf]
  | event hs he _ ih =>
    obtain ⟨n, rfl⟩ : ∃ m, n = m + 1 := ⟨n - 1, by omega⟩
    simp only [Machine.settle, hs, he]
    exact ih ht hf (by omega)

/-- A request accepted while idle, no further move of the host waiting, by the run of its operation. -/
theorem request_of_runs {op : BitVec 3} {arg : Word} {s t : State} {n : Nat} (hb : s.busy = false) (hh : s.host = [])
    (h : Runs n (beginOperation (accept op arg s)) t) (ht : settled t = true)
    (hn : n ≤ eventBound (beginOperation (accept op arg s))) : request op arg s = .next t := by
  simp only [request, runOperation, hb, moveWaits_false hh, Bool.false_eq_true, if_false]
  exact h.settle ht hn

/-- A request accepted while idle, a further move of the host waiting: its operation begins, with no event yet (R191). -/
theorem request_of_waits {op : BitVec 3} {arg : Word} {s : State} (hb : s.busy = false) (hh : s.host ≠ []) :
    request op arg s = .next (beginOperation (accept op arg s)) := by
  simp [request, hb, moveWaits_true hh]

/-! ## One event -/

/-- A receive whose answer is queued. -/
theorem Runs.byte {n : Nat} {s s' t : State} {b : Byte} {rest : List Byte} (hp : awaitsByte s.pos = true)
    (hrx : s.rx = b :: rest) (he : onByte b { s with rx := rest } = .next s') (h : Runs n s' t) : Runs (n + 1) s t := by
  refine .event ?_ ?_ h
  · have : s.pos ≠ .idle := by intro h; simp [h, awaitsByte] at hp
    have h2 : awaitsTick s.pos = false := by cases hq : s.pos <;> simp_all [awaitsByte, awaitsTick]
    simp [settled, starved, hrx, this, h2]
  · simp [seqStep, hp, takeByte_cons hrx, he]

/-- A tick read whose answer is queued. -/
theorem Runs.tick {n : Nat} {s t : State} {x : Nat} {rest : List Nat} (hp : awaitsTick s.pos = true)
    (hq : s.ticks = x :: rest) (h : Runs n (onTick (x % 2 ^ s.cfg.tickW) { s with ticks := rest }) t) :
    Runs (n + 1) s t := by
  have h1 : s.pos ≠ .idle := by intro h; simp [h, awaitsTick] at hp
  have h2 : awaitsByte s.pos = false := by cases hq : s.pos <;> simp_all [awaitsByte, awaitsTick]
  refine .event ?_ ?_ h
  · simp [settled, starved, hq, h1, h2]
  · simp [seqStep, hp, h2, takeTick_cons hq]

/-- An event without an answer. -/
theorem Runs.silent {n : Nat} {s s' t : State} (hp : s.pos ≠ .idle) (h1 : awaitsByte s.pos = false)
    (h2 : awaitsTick s.pos = false) (he : onSilent s = .next s') (h : Runs n s' t) : Runs (n + 1) s t :=
  .event (by simp [settled, starved, hp, h1, h2]) (by simp [seqStep, h1, h2, he]) h

/-! ## CARDCMD -/

/-- The bus-idle wait (R101). -/
theorem runs_cmdIdle {call : Call} {wait rest : List Byte} {s t : State} {n : Nat} (hp : s.pos = .cmdIdle call)
    (hw : ∀ b ∈ wait, b ≠ s.cfg.idleByte) (hrx : s.rx = wait ++ s.cfg.idleByte :: rest)
    (h : Runs n { s with pos := .cmdFrame call, rx := rest,
                         hist := .recv s.cfg.idleByte :: ((wait.map Event.recv).reverse ++ s.hist) } t) :
    Runs (n + wait.length + 1) s t := by
  induction wait generalizing s with
  | nil =>
    refine .byte (by simp [hp, awaitsByte]) (by simpa using hrx) ?_ h
    simp [onByte, hp, goto, log]
  | cons b wait ih =>
    have hb : b ≠ s.cfg.idleByte := hw b (by simp)
    rw [List.length_cons, ← Nat.add_assoc]
    refine .byte (by simp [hp, awaitsByte]) (by simpa using hrx) (s' := { s with rx := wait ++ s.cfg.idleByte :: rest, hist := .recv b :: s.hist }) ?_ ?_
    · simp [onByte, hp, hb, log]
    · refine ih hp (fun c hc => hw c (by simp [hc])) rfl ?_
      simpa using h

/-- The response poll from a count of `k` (R102). -/
theorem runs_cmdPoll {call : Call} {polls rest : List Byte} {r : Byte} {s t : State} {n : Nat} (hp : s.pos = .cmdPoll call)
    (hb : ∀ b ∈ polls, notYet b = true) (hk : s.polls + polls.length < s.cfg.cmdRespPolls)
    (hr : pollEnds s.cfg (s.polls + polls.length + 1) r = true) (hrx : s.rx = polls ++ r :: rest)
    (h : Runs n (resume call { s with r1 := r, polls := s.polls + polls.length + 1, rx := rest,
                                      hist := .recv r :: ((polls.map Event.recv).reverse ++ s.hist) }) t) :
    Runs (n + polls.length + 1) s t := by
  induction polls generalizing s with
  | nil =>
    refine .byte (by simp [hp, awaitsByte]) (by simpa using hrx) ?_ h
    simp only [List.length_nil, Nat.add_zero] at hr
    simp [onByte, hp, hr, log]
  | cons b polls ih =>
    have h1 : notYet b = true := hb b (by simp)
    have h2 : pollEnds s.cfg (s.polls + 1) b = false := by
      simp only [List.length_cons] at hk
      simp [pollEnds, h1]; omega
    rw [List.length_cons, ← Nat.add_assoc]
    refine .byte (by simp [hp, awaitsByte]) (by simpa using hrx)
      (s' := { s with r1 := b, polls := s.polls + 1, rx := polls ++ r :: rest, hist := .recv b :: s.hist }) ?_ ?_
    · simp [onByte, hp, h2, log]
    · have e : s.polls + 1 + polls.length = s.polls + (b :: polls).length := by simp; omega
      refine ih hp (fun c hc => hb c (by simp [hc])) (by simp only [e]; exact hk) (by simp only [e]; exact hr) rfl ?_
      simp only [e]
      simpa using h

/-- CARDCMD under answers that carry it to its end: its caller resumes with the response, and the history holds the
select, the wait, the frame and the poll (R100). -/
theorem runs_cmd {call : Call} {e : Exchange} {rest : List Byte} {s t : State} {n : Nat} (hp : s.pos = .cmdSel call)
    (hh : s.host = []) (ha : AnswersCmd s.cfg e) (hrx : s.rx = cmdAnswers s.cfg e ++ rest)
    (h : Runs n (resume call { s with
      cs := true, pos := .cmdPoll call, r1 := e.r, polls := e.polls.length + 1, rx := rest,
      hist := (cmdEvents s.cfg (callFrame s.cfg s.argReg call) e).reverse ++ s.hist }) t) :
    Runs (n + e.wait.length + e.polls.length + 4) s t := by
  obtain ⟨hw, hb, hk, hr⟩ := ha
  have e1 : n + e.wait.length + e.polls.length + 4 = (n + e.polls.length + 1 + 1 + e.wait.length + 1) + 1 := by omega
  rw [e1]
  refine .silent (by simp [hp]) (by simp [hp, awaitsByte]) (by simp [hp, awaitsTick])
    (s' := { s with cs := true, pos := .cmdIdle call, hist := .sel :: s.hist }) (by simp [onSilent, hp, tSel, goto, log]) ?_
  refine runs_cmdIdle (rest := e.polls ++ e.r :: rest) rfl hw (by simp [hrx, cmdAnswers]) ?_
  refine .silent (by simp) (by simp [awaitsByte]) (by simp [awaitsTick])
    (congrArg Host.Outcome.next (sendFrame_quiet (call := call) _ hh)) ?_
  refine runs_cmdPoll (r := e.r) (rest := rest) (polls := e.polls) rfl hb (by simpa using hk) (by simpa using hr) rfl ?_
  simpa [cmdEvents, frameEvents] using h

/-! ## WAITTOKEN -/

/-- The loop of WAITTOKEN up to its token (R90). -/
theorem runs_tokRecv {w : Wait} {misses : List (Byte × Nat)} {rest : List Byte} {restT : List Nat} {s t : State} {n : Nat}
    (hp : s.pos = .tokRecv w) (ht : s.t0 < 2 ^ s.cfg.tickW)
    (hm : Misses s.cfg (waitToken s.cfg w) (waitTimeout s.cfg w) s.t0 misses)
    (hrx : s.rx = tokenAnswers (waitToken s.cfg w) misses ++ rest) (hq : s.ticks = misses.map Prod.snd ++ restT)
    (h : Runs n (waitDone w true { s with
      rx := rest, ticks := restT,
      hist := .recv (waitToken s.cfg w) ::
        ((misses.flatMap (fun m => [Event.recv m.1, Event.tick (m.2 % 2 ^ s.cfg.tickW)])).reverse ++ s.hist) }) t) :
    Runs (n + 2 * misses.length + 1) s t := by
  induction misses generalizing s with
  | nil =>
    refine .byte (by simp [hp, awaitsByte]) (by simpa [tokenAnswers] using hrx) ?_ h
    simp [onByte, hp, log]
    simp_all
  | cons m misses ih =>
    obtain ⟨h1, h2⟩ := hm m (by simp)
    rw [Nat.mod_eq_of_lt ht] at h2
    have e : n + 2 * (m :: misses).length + 1 = (n + 2 * misses.length + 1) + 1 + 1 := by simp; omega
    rw [e]
    refine .byte (by simp [hp, awaitsByte]) (by simpa [tokenAnswers] using hrx)
      (s' := { s with pos := .tokTick w, rx := tokenAnswers (waitToken s.cfg w) misses ++ rest, hist := .recv m.1 :: s.hist }) ?_ ?_
    · simp [onByte, hp, h1, log, goto, tokenAnswers]
    · refine .tick (by simp [awaitsTick]) (x := m.2) (rest := misses.map Prod.snd ++ restT) (by simp [hq]) ?_
      have e2 : onTick (m.2 % 2 ^ s.cfg.tickW) { s with pos := .tokTick w, rx := tokenAnswers (waitToken s.cfg w) misses ++ rest, hist := .recv m.1 :: s.hist, ticks := misses.map Prod.snd ++ restT } =
          { s with pos := .tokRecv w, rx := tokenAnswers (waitToken s.cfg w) misses ++ rest, ticks := misses.map Prod.snd ++ restT,
                   hist := .tick (m.2 % 2 ^ s.cfg.tickW) :: .recv m.1 :: s.hist } := by
        simp [onTick, h2, goto, log]
      rw [e2]
      refine ih rfl ht (fun x hx => hm x (by simp [hx])) rfl rfl ?_
      simpa [hp] using h

/-- WAITTOKEN whose token comes: its caller goes on, and the history holds the start tick, the misses and the token
(R90). -/
theorem runs_wait {w : Wait} {misses : List (Byte × Nat)} {t0 : Nat} {rest : List Byte} {restT : List Nat} {s t : State}
    {n : Nat} (hp : s.pos = .tokStart w)
    (hm : Misses s.cfg (waitToken s.cfg w) (waitTimeout s.cfg w) t0 misses)
    (hrx : s.rx = tokenAnswers (waitToken s.cfg w) misses ++ rest) (hq : s.ticks = t0 :: (misses.map Prod.snd ++ restT))
    (h : Runs n (waitDone w true { s with
      t0 := t0 % 2 ^ s.cfg.tickW, pos := .tokRecv w, rx := rest, ticks := restT,
      hist := .recv (waitToken s.cfg w) :: ((waitEvents s.cfg t0 misses).reverse ++ s.hist) }) t) :
    Runs (n + 2 * misses.length + 2) s t := by
  have e : n + 2 * misses.length + 2 = (n + 2 * misses.length + 1) + 1 := by omega
  rw [e]
  refine .tick (by simp [hp, awaitsTick]) hq ?_
  have e2 : onTick (t0 % 2 ^ s.cfg.tickW) { s with ticks := misses.map Prod.snd ++ restT } =
      { s with t0 := t0 % 2 ^ s.cfg.tickW, pos := .tokRecv w, ticks := misses.map Prod.snd ++ restT,
               hist := .tick (t0 % 2 ^ s.cfg.tickW) :: s.hist } := by
    simp [onTick, hp, goto, log]
  rw [e2]
  refine runs_tokRecv (rest := rest) (restT := restT) rfl (Nat.mod_lt _ (Nat.two_pow_pos _)) ?_ hrx rfl ?_
  · intro m hmm
    simpa [Misses] using hm m hmm
  · simpa [waitEvents] using h

/-- WAITTOKEN that runs out: the last byte is no token and the tick after it is past the timeout; its caller goes on with
the failure (R90, R92). -/
theorem runs_waitTimeout {w : Wait} {misses : List (Byte × Nat)} {t0 x : Nat} {b : Byte} {rest : List Byte}
    {restT : List Nat} {s t : State} {n : Nat} (hp : s.pos = .tokStart w)
    (hm : Misses s.cfg (waitToken s.cfg w) (waitTimeout s.cfg w) t0 misses) (hb : b ≠ waitToken s.cfg w)
    (hx : expired s.cfg (waitTimeout s.cfg w) (x % 2 ^ s.cfg.tickW) (t0 % 2 ^ s.cfg.tickW) = true)
    (hrx : s.rx = misses.map Prod.fst ++ b :: rest) (hq : s.ticks = t0 :: (misses.map Prod.snd ++ x :: restT))
    (h : Runs n (waitDone w false { s with
      t0 := t0 % 2 ^ s.cfg.tickW, pos := .tokTick w, rx := rest, ticks := restT,
      hist := .tick (x % 2 ^ s.cfg.tickW) :: .recv b :: ((waitEvents s.cfg t0 misses).reverse ++ s.hist) }) t) :
    Runs (n + 2 * misses.length + 3) s t := by
  have e : n + 2 * misses.length + 3 = (n + 2 * misses.length + 2) + 1 := by omega
  rw [e]
  refine .tick (by simp [hp, awaitsTick]) hq ?_
  have e2 : onTick (t0 % 2 ^ s.cfg.tickW) { s with ticks := misses.map Prod.snd ++ x :: restT } =
      { s with t0 := t0 % 2 ^ s.cfg.tickW, pos := .tokRecv w, ticks := misses.map Prod.snd ++ x :: restT,
               hist := .tick (t0 % 2 ^ s.cfg.tickW) :: s.hist } := by
    simp [onTick, hp, goto, log]
  rw [e2]
  have loop : ∀ (misses : List (Byte × Nat)) (s : State), s.pos = .tokRecv w → s.t0 = t0 % 2 ^ s.cfg.tickW →
      Misses s.cfg (waitToken s.cfg w) (waitTimeout s.cfg w) t0 misses → b ≠ waitToken s.cfg w →
      expired s.cfg (waitTimeout s.cfg w) (x % 2 ^ s.cfg.tickW) (t0 % 2 ^ s.cfg.tickW) = true →
      s.rx = misses.map Prod.fst ++ b :: rest → s.ticks = misses.map Prod.snd ++ x :: restT →
      Runs n (waitDone w false { s with
        pos := .tokTick w, rx := rest, ticks := restT,
        hist := .tick (x % 2 ^ s.cfg.tickW) :: .recv b ::
          ((misses.flatMap (fun m => [Event.recv m.1, Event.tick (m.2 % 2 ^ s.cfg.tickW)])).reverse ++ s.hist) }) t →
      Runs (n + 2 * misses.length + 2) s t := by
    intro misses
    induction misses with
    | nil =>
      intro s hp ht hm hb hx hrx hq h
      refine .byte (by simp [hp, awaitsByte]) (by simpa using hrx)
        (s' := { s with pos := .tokTick w, rx := rest, hist := .recv b :: s.hist }) (by simp [onByte, hp, hb, goto, log]) ?_
      refine .tick rfl (x := x) (rest := restT) (by simpa using hq) ?_
      have e3 : onTick (x % 2 ^ s.cfg.tickW) { s with pos := .tokTick w, rx := rest, hist := .recv b :: s.hist, ticks := restT } =
          waitDone w false { s with pos := .tokTick w, rx := rest, ticks := restT,
                                    hist := .tick (x % 2 ^ s.cfg.tickW) :: .recv b :: s.hist } := by
        simp [onTick, ht, hx, log]
      rw [e3]
      simpa using h
    | cons m misses ih =>
      intro s hp ht hm hb hx hrx hq h
      obtain ⟨h1, h2⟩ := hm m (by simp)
      have e : n + 2 * (m :: misses).length + 2 = (n + 2 * misses.length + 2) + 1 + 1 := by simp; omega
      rw [e]
      refine .byte (by simp [hp, awaitsByte]) (by simpa using hrx)
        (s' := { s with pos := .tokTick w, rx := misses.map Prod.fst ++ b :: rest, hist := .recv m.1 :: s.hist })
        (by simp [onByte, hp, h1, log, goto]) ?_
      refine .tick rfl (x := m.2) (rest := misses.map Prod.snd ++ x :: restT) (by simp [hq]) ?_
      have e2 : onTick (m.2 % 2 ^ s.cfg.tickW) { s with pos := .tokTick w, rx := misses.map Prod.fst ++ b :: rest, hist := .recv m.1 :: s.hist, ticks := misses.map Prod.snd ++ x :: restT } =
          { s with pos := .tokRecv w, rx := misses.map Prod.fst ++ b :: rest, ticks := misses.map Prod.snd ++ x :: restT,
                   hist := .tick (m.2 % 2 ^ s.cfg.tickW) :: .recv m.1 :: s.hist } := by
        simp [onTick, ht, h2, goto, log]
      rw [e2]
      refine ih _ rfl ht (fun x hx => hm x (by simp [hx])) hb hx rfl rfl ?_
      simpa using h
  refine loop misses _ rfl rfl hm hb hx hrx rfl ?_
  simpa [waitEvents] using h

/-! ## XFER -/

/-- The trailer bytes, discarded (R120). -/
theorem runs_trailer {x : Xfer} {trailer rest : List Byte} {s t : State} {n : Nat} (hrx : s.rx = trailer ++ rest)
    (h : Runs n { s with pos := .xferDesel x, rx := rest, hist := (trailer.map Event.recv).reverse ++ s.hist } t) :
    Runs (n + trailer.length) (toTrailer x trailer.length s) t := by
  induction trailer generalizing s with
  | nil =>
    have : toTrailer x ([] : List Byte).length s = { s with pos := .xferDesel x, rx := rest } := by
      simp [toTrailer, goto]; simp_all
    rw [this]
    simpa using h
  | cons b trailer ih =>
    have e : toTrailer x (b :: trailer).length s = { s with pos := .trailer x (trailer.length + 1) } := by simp [toTrailer, goto]
    rw [e, List.length_cons, ← Nat.add_assoc]
    refine .byte (by simp [awaitsByte]) (b := b) (rest := trailer ++ rest) (by simpa using hrx)
      (s' := toTrailer x trailer.length { s with pos := .trailer x (trailer.length + 1), rx := trailer ++ rest, hist := .recv b :: s.hist })
      (by simp [onByte, log]) ?_
    refine ih rfl ?_
    simpa using h

/-- The payload bytes, each stored at the next index (R120). -/
theorem runs_payload {x : Xfer} {payload rest : List Byte} {s t : State} {n : Nat}
    (hsize : xferLen s.cfg x ≤ destSize s.cfg (xferDest x)) (hlen : s.idx + payload.length = xferLen s.cfg x)
    (hrx : s.rx = payload ++ rest)
    (h : Runs n (toTrailer x s.cfg.trailerLen { (setMem (xferDest x) (fillFrom (memOf s (xferDest x)) s.idx payload) s) with
      pos := .payload x, rx := rest, idx := xferLen s.cfg x,
      hist := (payloadEvents (xferDest x) s.idx payload).reverse ++ s.hist }) t) :
    Runs (n + 2 * payload.length) (toPayload x s) t := by
  induction payload generalizing s with
  | nil =>
    have hi : s.idx = xferLen s.cfg x := by simpa using hlen
    have e : toPayload x s = toTrailer x s.cfg.trailerLen { (setMem (xferDest x) (fillFrom (memOf s (xferDest x)) s.idx []) s) with
        pos := .payload x, rx := rest, idx := xferLen s.cfg x, hist := (payloadEvents (xferDest x) s.idx []).reverse ++ s.hist } := by
      have hrx' : rest = s.rx := by simp [hrx]
      have hm : setMem (xferDest x) (memOf s (xferDest x)) s = s := by cases hd : xferDest x <;> rfl
      simp only [toPayload, hi, Nat.lt_irrefl, if_false, fillFrom_nil, hm, payloadEvents, List.reverse_nil, List.nil_append, hrx', toTrailer, goto]
    rw [e]
    simpa using h
  | cons b payload ih =>
    have hlt : s.idx < xferLen s.cfg x := by simp at hlen; omega
    have e : toPayload x s = { s with pos := .payload x } := by simp [toPayload, hlt, goto]
    rw [e, show n + 2 * (b :: payload).length = n + 2 * payload.length + 1 + 1 by simp; omega]
    refine .byte (by simp [awaitsByte]) (b := b) (rest := payload ++ rest) (by simpa using hrx)
      (s' := { s with pos := .store x b, rx := payload ++ rest, hist := .recv b :: s.hist })
      (by simp [onByte, goto, log]) ?_
    refine .silent (by simp) rfl rfl
      (s' := toPayload x { (setMem (xferDest x) (writeCell (memOf s (xferDest x)) s.idx b) s) with
        pos := .store x b, rx := payload ++ rest, idx := s.idx + 1,
        hist := .memWrite (xferDest x) s.idx b :: .recv b :: s.hist }) ?_ ?_
    · have : s.idx < destSize s.cfg (xferDest x) := by omega
      simp only [onSilent, storeByte, log, this, if_true]
      cases hd : xferDest x <;> simp [setMem, memOf]
    · refine ih ?_ ?_ ?_ ?_
      · simpa using hsize
      · simp at hlen ⊢; omega
      · rfl
      · cases hd : xferDest x <;> simpa [hd, setMem, memOf, payloadEvents] using h

/-- XFER whose token comes: its caller goes on with success, the payload in its destination (R120). -/
theorem runs_xfer {x : Xfer} {misses : List (Byte × Nat)} {t0 : Nat} {payload trailer rest : List Byte} {restT : List Nat}
    {s t : State} {n : Nat} (hp : s.pos = .tokStart (.startToken x))
    (hsize : xferLen s.cfg x ≤ destSize s.cfg (xferDest x))
    (hm : Misses s.cfg s.cfg.startToken s.cfg.readTimeoutMs t0 misses)
    (hpl : payload.length = xferLen s.cfg x) (htl : trailer.length = s.cfg.trailerLen)
    (hrx : s.rx = tokenAnswers s.cfg.startToken misses ++ (payload ++ (trailer ++ rest)))
    (hq : s.ticks = t0 :: (misses.map Prod.snd ++ restT))
    (h : Runs n (xferSucceeded x { (setMem (xferDest x) (fillFrom (memOf s (xferDest x)) 0 payload) s) with
      t0 := t0 % 2 ^ s.cfg.tickW, tokOk := true, idx := xferLen s.cfg x, cs := false, pos := .xferDesel x,
      rx := rest, ticks := restT,
      hist := (xferEvents s.cfg (xferDest x) t0 misses payload trailer).reverse ++ s.hist }) t) :
    Runs (n + 2 * misses.length + 2 * payload.length + trailer.length + 3) s t := by
  have e : n + 2 * misses.length + 2 * payload.length + trailer.length + 3 =
      (n + 1 + trailer.length + 2 * payload.length) + 2 * misses.length + 2 := by omega
  rw [e]
  refine runs_wait (rest := payload ++ (trailer ++ rest)) (restT := restT) hp (by simpa [waitToken, waitTimeout] using hm)
    (by simpa [waitToken] using hrx) hq ?_
  simp only [waitDone, startPayload, setTokOk, waitToken]
  refine runs_payload (payload := payload) (rest := trailer ++ rest) hsize (by simpa using hpl) rfl ?_
  simp only [setMem_cfg]
  rw [← htl]
  refine runs_trailer (trailer := trailer) (rest := rest) rfl ?_
  refine .silent (by simp) (by simp [awaitsByte]) (by simp [awaitsTick]) rfl ?_
  cases hd : xferDest x <;> simpa [hd, xferEvents, tDesel, log, setMem, memOf] using h

/-! ## The computation of `capacity` -/

/-- The reads of `CSDR` that follow the first `k` of them. -/
def csdReadsFrom (k : Nat) : List Byte → List Event
  | [] => []
  | b :: bs => .memRead .csdr (5 + k) b :: csdReadsFrom (k + 1) bs

/-- The reads of `CSDR` from a count of `got` bytes on (R43). -/
theorem runs_toCompute {got more : List Byte} {s t : State} {n : Nat} (hl : 11 ≤ s.cfg.regLen)
    (hg : got.length + more.length = 6)
    (hc : ∀ i, ∀ h : i < more.length, readCell s.csdr (5 + got.length + i) = some more[i])
    (h : ∀ p, Runs n (capacityDone (got ++ more) { s with
      pos := p, hist := (csdReadsFrom got.length more).reverse ++ s.hist }) t) :
    Runs (n + more.length) (toCompute got s) t := by
  induction more generalizing got s with
  | nil =>
    have hg : got.length = 6 := by simpa using hg
    simpa [toCompute, hg, csdReadsFrom] using h s.pos
  | cons b more ih =>
    have hlt : got.length < 6 := by simp at hg; omega
    have hb : readCell s.csdr (5 + got.length) = some b := hc 0 (by simp)
    have hs : 5 + got.length < s.cfg.regLen := by omega
    have e : toCompute got s = { s with pos := .capCompute got } := by simp [toCompute, hlt, goto]
    rw [e, List.length_cons, ← Nat.add_assoc]
    refine .silent (by simp) rfl rfl (s' := toCompute (got ++ [b])
      { s with pos := .capCompute got, hist := .memRead .csdr (5 + got.length) b :: s.hist })
      (by simp [onSilent, loadByte, destSize, hs, memOf, hb, log]) ?_
    refine ih hl (by simp at hg ⊢; omega) ?_ ?_
    · intro i hi
      have := hc (i + 1) (by simpa using hi)
      rw [show 5 + (got ++ [b]).length + i = 5 + got.length + (i + 1) by simp; omega]
      simpa using this
    · intro p
      simpa [csdReadsFrom] using h p

/-- `capacity` over a register image in `CSDR` (R141, R142). -/
theorem runs_capacity {bs : List Byte} {s : State} (hp : s.pos = .capCompute []) (hl : 11 ≤ s.cfg.regLen)
    (hc : ∀ i, 5 ≤ i → i ≤ 10 → readCell s.csdr i = some (bs.getD i 0#8)) :
    ∃ n free, (∀ v, csdCapacity bs = some v → n = v ∧ free = s.freeCount) ∧
      Runs 6 s (complete true { s with
        capacityOut := n, freeCount := free, hist := (csdReads bs).reverse ++ s.hist }) := by
  obtain ⟨n, free, hv, he⟩ := capacityDone_eq ([5, 6, 7, 8, 9, 10].map fun i => bs.getD i 0#8) s.freeCount
  refine ⟨n, free, hv, ?_⟩
  suffices Runs (0 + 6) (toCompute [] s) (complete true { s with
      capacityOut := n, freeCount := free, hist := (csdReads bs).reverse ++ s.hist }) by
    simpa [toCompute, goto, ← hp] using this
  refine runs_toCompute (n := 0) (more := [5, 6, 7, 8, 9, 10].map fun i => bs.getD i 0#8) hl (by simp) ?_ ?_
  · intro i hi
    have h6 : i < 6 := by simpa using hi
    have := hc (5 + i) (by omega) (by omega)
    interval_cases i <;> exact this
  · intro p
    have e := he { s with pos := p, hist := (csdReads bs).reverse ++ s.hist } rfl
    exact e ▸ .refl _

/-! ## The data of a write -/

/-- The fillers of a write (R152). -/
theorem runs_toFill {k : Nat} {s t : State} {n : Nat}
    (h : Runs n { s with pos := .wrAck, hist := List.replicate k (.send s.cfg.fillByte) ++ s.hist } t) :
    Runs (n + k) (toFill k s) t := by
  induction k generalizing s with
  | zero => simpa [toFill, goto] using h
  | succ k ih =>
    have e : toFill (k + 1) s = { s with pos := .wrFill (k + 1) } := by simp [toFill, goto]
    rw [e, ← Nat.add_assoc]
    refine .silent (by simp) rfl rfl
      (s' := toFill k { s with pos := .wrFill (k + 1), hist := .send s.cfg.fillByte :: s.hist }) (by simp [onSilent, tSend, log]) ?_
    refine ih ?_
    rw [List.replicate_succ'] at h
    simpa using h

/-- The data of a write: every cell of `BUF` from `idx` to its end, read and sent (R152, R153 e). -/
theorem runs_toWrData {data : List Byte} {s t : State} {n : Nat} (hlen : s.idx + data.length = s.cfg.blockLen)
    (hd : ∀ i, ∀ h : i < data.length, readCell s.buf (s.idx + i) = some data[i])
    (h : Runs n (toFill s.cfg.trailerLen { s with
      pos := .wrData, idx := s.cfg.blockLen, hist := (dataEvents s.idx data).reverse ++ s.hist }) t) :
    Runs (n + 2 * data.length) (toWrData s) t := by
  induction data generalizing s with
  | nil =>
    have hi : s.idx = s.cfg.blockLen := by simpa using hlen
    have e : toWrData s = toFill s.cfg.trailerLen { s with
        pos := .wrData, idx := s.cfg.blockLen, hist := (dataEvents s.idx []).reverse ++ s.hist } := by
      simp only [toWrData, hi, Nat.lt_irrefl, if_false, toFill, goto, dataEvents, List.reverse_nil, List.nil_append]
    rw [e]
    simpa using h
  | cons b data ih =>
    have hlt : s.idx < s.cfg.blockLen := by simp at hlen; omega
    have hb : readCell s.buf s.idx = some b := hd 0 (by simp)
    have e : toWrData s = { s with pos := .wrData } := by simp [toWrData, hlt, goto]
    rw [e, show n + 2 * (b :: data).length = n + 2 * data.length + 1 + 1 by simp; omega]
    refine .silent (by simp) rfl rfl (s' := { s with pos := .wrSend b, hist := .memRead .buf s.idx b :: s.hist })
      (by simp [onSilent, loadByte, destSize, hlt, memOf, hb, goto, log]) ?_
    refine .silent (by simp) rfl rfl (s' := toWrData { s with
      pos := .wrSend b, idx := s.idx + 1, hist := .send b :: .memRead .buf s.idx b :: s.hist }) ?_ ?_
    · simp [onSilent, tSend, log]
    · refine ih (by simp at hlen ⊢; omega) ?_ ?_
      · intro i hi
        have := hd (i + 1) (by simpa using hi)
        rw [show s.idx + 1 + i = s.idx + (i + 1) by omega]
        simpa using this
      · simpa [dataEvents] using h

/-- The data of a write up to the first cell that holds no value, or short of the end for another reason. -/
theorem runs_toWrData_part {data : List Byte} {s t : State} {n : Nat} (hlen : s.idx + data.length < s.cfg.blockLen)
    (hd : ∀ i, ∀ h : i < data.length, readCell s.buf (s.idx + i) = some data[i])
    (h : Runs n { s with pos := .wrData, idx := s.idx + data.length, hist := (dataEvents s.idx data).reverse ++ s.hist } t) :
    Runs (n + 2 * data.length) (toWrData s) t := by
  induction data generalizing s with
  | nil =>
    have hlt : s.idx < s.cfg.blockLen := by simpa using hlen
    simpa [toWrData, hlt, goto, dataEvents] using h
  | cons b data ih =>
    have hlt : s.idx < s.cfg.blockLen := by simp at hlen; omega
    have hb : readCell s.buf s.idx = some b := hd 0 (by simp)
    have e : toWrData s = { s with pos := .wrData } := by simp [toWrData, hlt, goto]
    rw [e, show n + 2 * (b :: data).length = n + 2 * data.length + 1 + 1 by simp; omega]
    refine .silent (by simp) rfl rfl (s' := { s with pos := .wrSend b, hist := .memRead .buf s.idx b :: s.hist })
      (by simp [onSilent, loadByte, destSize, hlt, memOf, hb, goto, log]) ?_
    refine .silent (by simp) rfl rfl (s' := toWrData { s with
      pos := .wrSend b, idx := s.idx + 1, hist := .send b :: .memRead .buf s.idx b :: s.hist }) ?_ ?_
    · simp [onSilent, tSend, log]
    · refine ih (by simp at hlen ⊢; omega) ?_ ?_
      · intro i hi
        have := hd (i + 1) (by simpa using hi)
        rw [show s.idx + 1 + i = s.idx + (i + 1) by omega]
        simpa using this
      · have e : s.idx + 1 + data.length = s.idx + (b :: data).length := by simp; omega
        simpa only [e, dataEvents, List.reverse_cons, List.append_assoc, List.cons_append, List.nil_append] using h

/-! ## The start of `initialize`, and its attempts -/

/-- The priming bytes (R131). -/
theorem runs_toPrime {k : Nat} {s t : State} {n : Nat}
    (h : Runs n { s with pos := .initSel, hist := List.replicate k (.send s.cfg.fillByte) ++ s.hist } t) :
    Runs (n + k) (toPrime k s) t := by
  induction k generalizing s with
  | zero => simpa [toPrime, goto] using h
  | succ k ih =>
    have e : toPrime (k + 1) s = { s with pos := .initPrime (k + 1) } := by simp [toPrime, goto]
    rw [e, ← Nat.add_assoc]
    refine .silent (by simp) rfl rfl
      (s' := toPrime k { s with pos := .initPrime (k + 1), hist := .send s.cfg.fillByte :: s.hist })
      (by simp [onSilent, tSend, log]) ?_
    refine ih ?_
    rw [List.replicate_succ'] at h
    simpa using h

/-- `initialize` from its start tick to its first command (R131). -/
theorem runs_initStart {s t : State} {t0 k : Nat} {restT : List Nat} {n : Nat} (hp : s.pos = .initTick)
    (hq : s.ticks = t0 :: restT) (hk : s.cfg.primeBytes = k)
    (h : Runs n { s with
      t0 := t0 % 2 ^ s.cfg.tickW, clockSlow := true, cs := true, pos := .cmdSel .reset, ticks := restT,
      hist := (initEvents s.cfg t0).reverse ++ s.hist } t) :
    Runs (n + k + 4) s t := by
  have e : n + k + 4 = ((n + 1) + s.cfg.primeBytes) + 1 + 1 + 1 := by omega
  rw [e]
  refine .tick (by simp [hp, awaitsTick]) hq ?_
  simp only [onTick, hp, goto, log]
  refine .silent (by simp) rfl rfl rfl ?_
  refine .silent (by simp [goto]) rfl rfl rfl ?_
  refine runs_toPrime ?_
  refine .silent (by simp) rfl rfl rfl ?_
  simpa [tDesel, tSlowClock, tSel, log, goto, initEvents] using h

/-- How many events attempts of one command each take. -/
def triesCount (tries : List (Exchange × Nat)) : Nat :=
  (tries.map fun a => a.1.wait.length + a.1.polls.length + 5).sum

/-- How many events attempts of the application command take. -/
def pairCount (tries : List (Exchange × Exchange × Nat)) : Nat :=
  (tries.map fun a => a.1.wait.length + a.1.polls.length + a.2.1.wait.length + a.2.1.polls.length + 9).sum

/-- Unsuccessful attempts of phase 1 of `initialize` (R132). What they leave in `cs`, `r1` and `polls`, the next command
overwrites. -/
theorem runs_resetTries {tries : List (Exchange × Nat)} {t0 : Nat} {rest : List Byte} {restT : List Nat} {s t : State}
    {n : Nat} (hp : s.pos = .cmdSel .reset) (hh : s.host = []) (ht : s.t0 = t0 % 2 ^ s.cfg.tickW) (hr : Retries s.cfg s.cfg.r1Idle t0 tries)
    (hrx : s.rx = triesAnswers s.cfg tries ++ rest) (hq : s.ticks = tries.map Prod.snd ++ restT)
    (h : ∀ c r p, Runs n { s with
      cs := c, r1 := r, polls := p, rx := rest, ticks := restT,
      hist := (triesEvents s.cfg (frameWord s.cfg s.cfg.cmdReset 0#32) tries).reverse ++ s.hist } t) :
    Runs (n + triesCount tries) s t := by
  induction tries generalizing s with
  | nil =>
    have := h s.cs s.r1 s.polls
    simp [triesAnswers, triesEvents, triesCount] at this hrx hq ⊢
    rw [← hrx, ← hq] at this
    exact this
  | cons a tries ih =>
    obtain ⟨ha, hne, hx⟩ := hr a (by simp)
    have e : n + triesCount (a :: tries) = (n + triesCount tries + 1) + a.1.wait.length + a.1.polls.length + 4 := by
      simp [triesCount]; omega
    rw [e]
    refine runs_cmd (e := a.1) (rest := triesAnswers s.cfg tries ++ rest) hp hh ha (by simpa [triesAnswers] using hrx) ?_
    simp only [resume, hne, if_false, goto]
    refine .tick rfl (x := a.2) (rest := tries.map Prod.snd ++ restT) (by simpa using hq) ?_
    simp only [onTick, ht, hx, goto, log, Bool.false_eq_true, if_false]
    apply ih
    · rfl
    · exact hh
    · rfl
    · exact fun b hb => hr b (by simp [hb])
    · rfl
    · rfl
    · intro c r p
      simpa [hp, ht, triesEvents, callFrame, callCmd, callArg] using h c r p

/-- Unsuccessful attempts of phase 2 of `initialize` under LEGACY (R133). -/
theorem runs_readyTries {tries : List (Exchange × Nat)} {t0 : Nat} {rest : List Byte} {restT : List Nat} {s t : State}
    {n : Nat} (hs : s.cfg.initStrategy = .legacy) (hp : s.pos = .cmdSel .legacyInit)
    (hh : s.host = []) (ht : s.t0 = t0 % 2 ^ s.cfg.tickW)
    (hr : Retries s.cfg s.cfg.r1Ready t0 tries)
    (hrx : s.rx = triesAnswers s.cfg tries ++ rest) (hq : s.ticks = tries.map Prod.snd ++ restT)
    (h : ∀ c r p, Runs n { s with
      cs := c, r1 := r, polls := p, rx := rest, ticks := restT,
      hist := (triesEvents s.cfg (frameWord s.cfg s.cfg.cmdLegacyInit 0#32) tries).reverse ++ s.hist } t) :
    Runs (n + triesCount tries) s t := by
  induction tries generalizing s with
  | nil =>
    have := h s.cs s.r1 s.polls
    simp [triesAnswers, triesEvents, triesCount] at this hrx hq ⊢
    rw [← hrx, ← hq] at this
    exact this
  | cons a tries ih =>
    obtain ⟨ha, hne, hx⟩ := hr a (by simp)
    have e : n + triesCount (a :: tries) = (n + triesCount tries + 1) + a.1.wait.length + a.1.polls.length + 4 := by
      simp [triesCount]; omega
    rw [e]
    refine runs_cmd (e := a.1) (rest := triesAnswers s.cfg tries ++ rest) hp hh ha (by simpa [triesAnswers] using hrx) ?_
    simp only [resume, hne, if_false, goto]
    refine .tick rfl (x := a.2) (rest := tries.map Prod.snd ++ restT) (by simpa using hq) ?_
    simp only [onTick, ht, hx, goto, log, startReady, hs, Bool.false_eq_true, if_false]
    apply ih
    · exact hs
    · rfl
    · exact hh
    · rfl
    · exact fun b hb => hr b (by simp [hb])
    · rfl
    · rfl
    · intro c r p
      simpa [hp, ht, triesEvents, callFrame, callCmd, callArg] using h c r p

/-- Unsuccessful attempts of phase 2 of `initialize` under ACMD (R104, R133). -/
theorem runs_pairTries {tries : List (Exchange × Exchange × Nat)} {t0 : Nat} {rest : List Byte} {restT : List Nat}
    {s t : State} {n : Nat} (hs : s.cfg.initStrategy = .acmd) (hp : s.pos = .cmdSel .appPrefix)
    (hh : s.host = []) (ht : s.t0 = t0 % 2 ^ s.cfg.tickW) (hr : PairRetries s.cfg s.cfg.r1Ready t0 tries)
    (hrx : s.rx = pairAnswers s.cfg tries ++ rest) (hq : s.ticks = tries.map (fun a => a.2.2) ++ restT)
    (h : ∀ c r p, Runs n { s with
      cs := c, r1 := r, polls := p, rx := rest, ticks := restT,
      hist := (pairEvents s.cfg (frameWord s.cfg s.cfg.cmdAppPrefix 0#32) (frameWord s.cfg s.cfg.acmdInit 0#32)
        tries).reverse ++ s.hist } t) :
    Runs (n + pairCount tries) s t := by
  induction tries generalizing s with
  | nil =>
    have := h s.cs s.r1 s.polls
    simp [pairAnswers, pairEvents, pairCount] at this hrx hq ⊢
    rw [← hrx, ← hq] at this
    exact this
  | cons a tries ih =>
    obtain ⟨hb, ha, hne, hx⟩ := hr a (by simp)
    have e : n + pairCount (a :: tries) = ((n + pairCount tries + 1) + a.2.1.wait.length + a.2.1.polls.length + 4)
        + a.1.wait.length + a.1.polls.length + 4 := by
      simp [pairCount]; omega
    rw [e]
    refine runs_cmd (e := a.1) (rest := cmdAnswers s.cfg a.2.1 ++ (pairAnswers s.cfg tries ++ rest)) hp hh hb
      (by simpa [pairAnswers] using hrx) ?_
    simp only [resume, goto]
    apply runs_cmd (call := .appInit) (e := a.2.1) (rest := pairAnswers s.cfg tries ++ rest)
    · rfl
    · exact hh
    · exact ha
    · rfl
    · simp only [resume, hne, if_false, goto]
      refine .tick rfl (x := a.2.2) (rest := tries.map (fun a => a.2.2) ++ restT) (by simpa using hq) ?_
      simp only [onTick, ht, hx, goto, log, startReady, hs, Bool.false_eq_true, if_false]
      apply ih
      · exact hs
      · rfl
      · exact hh
      · rfl
      · exact fun b hb => hr b (by simp [hb])
      · rfl
      · rfl
      · intro c r p
        simpa [hp, ht, pairEvents, callFrame, callCmd, callArg] using h c r p

end Sys2Proof.Machine
end

