-- ==== Sys2Proof/Laws/Events.lean ====
section
/-! SUPPORT. What an event of the sequencer leaves alone, and that the host's script plays no part in it, the sends of a
frame apart. -/

namespace Sys2Proof.Machine

/-! ## The fields no event changes -/

/-- The fields an event never changes: the configuration, the sampled operands, the host's script (R18, R24, R25). -/
def SameOperation (s t : State) : Prop :=
  t.cfg = s.cfg ∧ t.opReg = s.opReg ∧ t.argReg = s.argReg ∧ t.host = s.host

theorem SameOperation.trans {s t u : State} (h : SameOperation s t) (h' : SameOperation t u) : SameOperation s u :=
  ⟨h'.1.trans h.1, h'.2.1.trans h.2.1, h'.2.2.1.trans h.2.2.1, h'.2.2.2.trans h.2.2.2⟩

theorem SameOperation.refl (s : State) : SameOperation s s := ⟨rfl, rfl, rfl, rfl⟩

theorem toTrailer_same (x : Xfer) (l : Nat) (s : State) : SameOperation s (toTrailer x l s) := by
  unfold toTrailer
  split <;> exact .refl s

theorem toPayload_same (x : Xfer) (s : State) : SameOperation s (toPayload x s) := by
  unfold toPayload
  split
  · exact .refl s
  · exact toTrailer_same x _ s

theorem toFill_same (l : Nat) (s : State) : SameOperation s (toFill l s) := by
  unfold toFill
  split <;> exact .refl s

theorem toWrData_same (s : State) : SameOperation s (toWrData s) := by
  unfold toWrData
  split
  · exact .refl s
  · exact toFill_same _ s

theorem toPrime_same (l : Nat) (s : State) : SameOperation s (toPrime l s) := by
  unfold toPrime
  split <;> exact .refl s

theorem startReady_same (s : State) : SameOperation s (startReady s) := by
  unfold startReady
  split <;> exact .refl s

theorem xferFailed_same (x : Xfer) (s : State) : SameOperation s (xferFailed x s) := by cases x <;> exact .refl s

theorem xferSucceeded_same (x : Xfer) (s : State) : SameOperation s (xferSucceeded x s) := by cases x <;> exact .refl s

theorem waitDone_same (w : Wait) (v : Bool) (s : State) : SameOperation s (waitDone w v s) := by
  cases w <;> cases v
  · exact .refl s
  · exact (toPayload_same _ { setTokOk true s with idx := 0 })
  · exact .refl s
  · exact .refl s

theorem resume_same (call : Call) (s : State) : SameOperation s (resume call s) := by
  cases call <;> simp only [resume] <;> (try split)
  all_goals first
    | exact startReady_same s
    | exact .refl s

theorem afterLatch_same (site : LatchSite) (s : State) : SameOperation s (afterLatch site s) := by
  cases site <;> simp only [afterLatch]
  case tokenTimeout x =>
    split
    · exact xferFailed_same x s
    · exact toPayload_same x { s with idx := 0 }
  all_goals exact .refl s

theorem sendFrame_same (call : Call) (bs : List Byte) (s : State) : SameOperation s (sendFrame call bs s) := by
  obtain ⟨sent, left, rfl, ⟨_, e⟩ | ⟨_, _, _, e⟩⟩ := sendFrame_cases call bs s <;> rw [e] <;> exact .refl s

theorem toCompute_same (got : List Byte) (s : State) : SameOperation s (toCompute got s) := by
  unfold toCompute
  split
  · exact .refl s
  · obtain ⟨n, free, _, e⟩ := capacityDone_eq got s.freeCount
    rw [e s rfl]
    exact .refl s

theorem onByte_same {b : Byte} {s t : State} (h : onByte b s = .next t) : SameOperation s t := by
  unfold onByte at h
  split at h <;> cases h
  all_goals first
    | exact .refl s
    | exact toTrailer_same _ _ (log _ s)
    | (split <;> exact .refl s)
    | (split; exact resume_same _ (log _ _); exact .refl s)
    | (split; exact waitDone_same _ _ (log _ s); exact .refl s)

theorem onTick_same (n : Nat) (s : State) : SameOperation s (onTick n s) := by
  unfold onTick
  split
  all_goals first
    | exact .refl s
    | (split <;> exact .refl s)
    | (split; exact .refl s; exact startReady_same (log _ s))
    | (split; exact waitDone_same _ _ (log _ s); exact .refl s)

theorem onSilent_same {s t : State} (h : onSilent s = .next t) : SameOperation s t := by
  unfold onSilent at h
  split at h
  case h_11 x b hp =>
    obtain ⟨_, h⟩ := storeByte_next h
    cases h
    refine .trans ?_ (toPayload_same x _)
    cases x <;> exact .refl s
  case h_13 got hp =>
    obtain ⟨_, b, _, h⟩ := loadByte_next h
    cases h
    exact toCompute_same _ (log _ s)
  case h_15 hp =>
    obtain ⟨_, b, _, h⟩ := loadByte_next h
    cases h
    exact .refl s
  all_goals cases h
  all_goals first
    | exact .refl s
    | exact sendFrame_same _ _ s
    | exact toPrime_same _ (log _ s)
    | exact toPrime_same _ (tDesel s)
    | exact xferFailed_same _ (tDesel s)
    | exact xferSucceeded_same _ (tDesel s)
    | exact toWrData_same { tSend _ s with idx := 0 }
    | exact toWrData_same { tSend _ s with idx := _ }
    | exact toFill_same _ (tSend _ s)
    | exact afterLatch_same _ (raiseLatch _ _ s)

/-- What every event leaves alone. -/
theorem seqStep_same {s t : State} (h : seqStep s = .next t) : SameOperation s t := by
  revert h
  refine seqStep_cases (Q := fun r => r = .next t → SameOperation s t) s ?_ ?_ ?_
  · exact fun _ b r f h => onByte_same (s := { s with rx := r, freeCount := f }) h
  · rintro _ _ n r f _ ⟨⟩
    exact onTick_same n { s with ticks := r, freeCount := f }
  · exact fun _ _ h => onSilent_same h

/-! ## The host's script in an event -/

/-- A result with another script of the host. -/
def withHost (x : List HostMove) : Result → Result
  | .next s => .next { s with host := x }
  | .fault f => .fault f
  | .refused r => .refused r

theorem toTrailer_host (x : Xfer) (l : Nat) (s : State) (h : List HostMove) :
    toTrailer x l { s with host := h } = { toTrailer x l s with host := h } := by
  unfold toTrailer
  split <;> rfl

theorem toPayload_host (x : Xfer) (s : State) (h : List HostMove) :
    toPayload x { s with host := h } = { toPayload x s with host := h } := by
  unfold toPayload
  split
  · rfl
  · exact toTrailer_host x _ s h

theorem toFill_host (l : Nat) (s : State) (h : List HostMove) :
    toFill l { s with host := h } = { toFill l s with host := h } := by
  unfold toFill
  split <;> rfl

theorem toWrData_host (s : State) (h : List HostMove) :
    toWrData { s with host := h } = { toWrData s with host := h } := by
  unfold toWrData
  split
  · rfl
  · exact toFill_host _ s h

theorem toPrime_host (l : Nat) (s : State) (h : List HostMove) :
    toPrime l { s with host := h } = { toPrime l s with host := h } := by
  unfold toPrime
  split <;> rfl

theorem startReady_host (s : State) (h : List HostMove) :
    startReady { s with host := h } = { startReady s with host := h } := by
  cases e : s.cfg.initStrategy <;> simp [startReady, e, goto]

theorem xferFailed_host (x : Xfer) (s : State) (h : List HostMove) :
    xferFailed x { s with host := h } = { xferFailed x s with host := h } := by cases x <;> rfl

theorem xferSucceeded_host (x : Xfer) (s : State) (h : List HostMove) :
    xferSucceeded x { s with host := h } = { xferSucceeded x s with host := h } := by cases x <;> rfl

theorem waitDone_host (w : Wait) (v : Bool) (s : State) (h : List HostMove) :
    waitDone w v { s with host := h } = { waitDone w v s with host := h } := by
  cases w <;> cases v
  · rfl
  · exact toPayload_host _ { setTokOk true s with idx := 0 } h
  · rfl
  · rfl

theorem resume_host (call : Call) (s : State) (h : List HostMove) :
    resume call { s with host := h } = { resume call s with host := h } := by
  cases call <;> simp only [resume] <;> (try split)
  all_goals first
    | rfl
    | exact startReady_host s h

theorem toCompute_host (got : List Byte) (s : State) (h : List HostMove) :
    toCompute got { s with host := h } = { toCompute got s with host := h } := by
  unfold toCompute
  split
  · rfl
  · unfold capacityDone
    split <;> rfl

theorem afterLatch_host (site : LatchSite) (s : State) (h : List HostMove) :
    afterLatch site { s with host := h } = { afterLatch site s with host := h } := by
  cases site <;> simp only [afterLatch]
  case tokenTimeout x =>
    split
    · exact xferFailed_host x s h
    · exact toPayload_host x { s with idx := 0 } h
  all_goals rfl

theorem ite_host {p : Prop} [Decidable p] (a b : State) (h : List HostMove) :
    (if p then { a with host := h } else { b with host := h }) = ({ (if p then a else b) with host := h } : State) := by
  split <;> rfl

theorem onByte_host (b : Byte) (s : State) (h : List HostMove) :
    onByte b { s with host := h } = withHost h (onByte b s) := by
  obtain ⟨p, s, rfl⟩ : ∃ p s', s = { s' with pos := p } := ⟨s.pos, s, rfl⟩
  cases p
  case cmdIdle call => exact congrArg Host.Outcome.next (ite_host (goto (.cmdFrame call) (log (.recv b) _)) (log (.recv b) _) h)
  case cmdPoll call =>
    show Host.Outcome.next (if pollEnds s.cfg (s.polls + 1) b then
      resume call { log (.recv b) { s with pos := .cmdPoll call, r1 := b, polls := s.polls + 1 } with host := h } else _) = _
    rw [resume_host]
    exact congrArg Host.Outcome.next (ite_host (resume call _)
      (log (.recv b) { s with pos := .cmdPoll call, r1 := b, polls := s.polls + 1 }) h)
  case tokRecv w =>
    show Host.Outcome.next (if b = waitToken s.cfg w then
      waitDone w true { log (.recv b) { s with pos := .tokRecv w } with host := h } else _) = _
    rw [waitDone_host]
    exact congrArg Host.Outcome.next (ite_host (waitDone w true _) (goto (.tokTick w) (log (.recv b) { s with pos := .tokRecv w })) h)
  case trailer x l => exact congrArg Host.Outcome.next (toTrailer_host x _ (log (.recv b) { s with pos := .trailer x l }) h)
  case wrAck =>
    exact congrArg Host.Outcome.next (ite_host (goto (.tokStart .writeBusy) (log (.recv b) { s with pos := .wrAck, ack := b }))
      (goto (.latch .dataRejected) (log (.recv b) { s with pos := .wrAck, ack := b })) h)
  all_goals rfl

theorem onTick_host (n : Nat) (s : State) (h : List HostMove) :
    onTick n { s with host := h } = { onTick n s with host := h } := by
  obtain ⟨p, s, rfl⟩ : ∃ p s', s = { s' with pos := p } := ⟨s.pos, s, rfl⟩
  cases p
  case initResetTick =>
    exact ite_host (goto (.latch .resetFailed) (log (.tick n) { s with pos := .initResetTick }))
      (goto (.cmdSel .reset) (log (.tick n) { s with pos := .initResetTick })) h
  case initReadyTick =>
    show (if expired s.cfg s.cfg.initTimeoutMs n s.t0 then _ else
      startReady { log (.tick n) { s with pos := .initReadyTick } with host := h }) = _
    rw [startReady_host]
    exact ite_host (goto (.latch .readyFailed) (log (.tick n) { s with pos := .initReadyTick })) (startReady _) h
  case tokTick w =>
    show (if expired s.cfg (waitTimeout s.cfg w) n s.t0 then
      waitDone w false { log (.tick n) { s with pos := .tokTick w } with host := h } else _) = _
    rw [waitDone_host]
    exact ite_host (waitDone w false _) (goto (.tokRecv w) (log (.tick n) { s with pos := .tokTick w })) h
  all_goals rfl

theorem loadByte_host (d : Dest) (i : Nat) (s : State) (h : List HostMove) {k k' : Byte → State → Result}
    (hk : ∀ b, k' b (log (.memRead d i b) { s with host := h }) = withHost h (k b (log (.memRead d i b) s))) :
    loadByte d i { s with host := h } k' = withHost h (loadByte d i s k) := by
  have e : memOf { s with host := h } d = memOf s d := by cases d <;> rfl
  unfold loadByte
  rw [e]
  split
  · cases readCell (memOf s d) i with
    | none => rfl
    | some b => exact hk b
  · rfl

theorem onSilent_host (s : State) (h : List HostMove) (hf : ∀ call, s.pos ≠ .cmdFrame call)
    (hs : ∀ call left, s.pos ≠ .cmdSend call left) : onSilent { s with host := h } = withHost h (onSilent s) := by
  obtain ⟨p, s, rfl⟩ : ∃ p s', s = { s' with pos := p } := ⟨s.pos, s, rfl⟩
  cases p
  case cmdFrame call => exact absurd rfl (hf call)
  case cmdSend call left => exact absurd rfl (hs call left)
  case latch site =>
    refine congrArg Host.Outcome.next ?_
    have e : siteData { s with pos := .latch site, host := h } site = siteData { s with pos := .latch site } site := by
      cases site <;> rfl
    unfold latchAt
    rw [e]
    exact afterLatch_host site (raiseLatch _ _ { s with pos := .latch site }) h
  case store x b =>
    have e : ∀ s : State, s.pos = .store x b → onSilent s =
        storeByte (xferDest x) s.idx b s fun s1 => .next (toPayload x { s1 with idx := s.idx + 1 }) := by
      intro s h
      simp [onSilent, h]
    rw [e _ rfl, e _ rfl]
    unfold storeByte
    show (if s.idx < destSize s.cfg _ then _ else _) = withHost h (if s.idx < destSize s.cfg _ then _ else _)
    split
    · refine congrArg Host.Outcome.next ?_
      cases x
      · exact toPayload_host _ { log (.memWrite .csdr s.idx b) { s with
          pos := .store .capacity b, csdr := writeCell s.csdr s.idx b } with idx := s.idx + 1 } h
      · exact toPayload_host _ { log (.memWrite .buf s.idx b) { s with
          pos := .store .register b, buf := writeCell s.buf s.idx b } with idx := s.idx + 1 } h
      · exact toPayload_host _ { log (.memWrite .buf s.idx b) { s with
          pos := .store .block b, buf := writeCell s.buf s.idx b } with idx := s.idx + 1 } h
    · rfl
  case capCompute got =>
    have e : ∀ s : State, s.pos = .capCompute got → onSilent s =
        loadByte .csdr (5 + got.length) s fun b s1 => .next (toCompute (got ++ [b]) s1) := by
      intro s h
      simp [onSilent, h]
    rw [e _ rfl, e _ rfl]
    exact loadByte_host _ _ { s with pos := .capCompute got } h fun b =>
      congrArg Host.Outcome.next (toCompute_host (got ++ [b]) (log _ { s with pos := .capCompute got }) h)
  case wrData =>
    have e : ∀ s : State, s.pos = .wrData → onSilent s = loadByte .buf s.idx s fun b s1 => .next (goto (.wrSend b) s1) := by
      intro s h
      simp [onSilent, h]
    rw [e _ rfl, e _ rfl]
    exact loadByte_host _ _ { s with pos := .wrData } h fun b => rfl
  case initDesel => exact congrArg Host.Outcome.next (toPrime_host _ (tDesel { s with pos := .initDesel }) h)
  case initPrime l => exact congrArg Host.Outcome.next (toPrime_host _ (tSend _ { s with pos := .initPrime l }) h)
  case regDesel x => exact congrArg Host.Outcome.next (xferFailed_host x (tDesel { s with pos := .regDesel x }) h)
  case xferDesel x => exact congrArg Host.Outcome.next (xferSucceeded_host x (tDesel { s with pos := .xferDesel x }) h)
  case wrToken =>
    exact congrArg Host.Outcome.next (toWrData_host { tSend s.cfg.startToken { s with pos := .wrToken } with idx := 0 } h)
  case wrSend b =>
    exact congrArg Host.Outcome.next (toWrData_host { tSend b { s with pos := .wrSend b } with idx := s.idx + 1 } h)
  case wrFill l => exact congrArg Host.Outcome.next (toFill_host _ (tSend s.cfg.fillByte { s with pos := .wrFill l }) h)
  all_goals rfl

/-- The host's script plays no part in an event, the sends of a frame apart. -/
theorem seqStep_host (s : State) (h : List HostMove) (hf : ∀ call, s.pos ≠ .cmdFrame call)
    (hs : ∀ call left, s.pos ≠ .cmdSend call left) : seqStep { s with host := h } = withHost h (seqStep s) := by
  unfold seqStep
  show (if awaitsByte s.pos then _ else if awaitsTick s.pos then _ else _) = _
  split
  · have e : takeByte { s with host := h } = ((takeByte s).1, { (takeByte s).2 with host := h }) := by
      unfold takeByte
      cases s.rx <;> rfl
    rw [e]
    exact onByte_host _ _ h
  · split
    · have e : takeTick { s with host := h } = ((takeTick s).1, { (takeTick s).2 with host := h }) := by
        unfold takeTick
        cases s.ticks <;> rfl
      rw [e]
      exact congrArg Host.Outcome.next (onTick_host _ _ h)
    · exact onSilent_host s h hf hs

end Sys2Proof.Machine
end

