-- ==== Sys2Proof/Laws/PerInstr.lean ====
section
/-! SUPPORT. Every constructor against its row of spec/opcode_table.json: the encoding of a well-formed instruction, under
the table's constants, has the row's width and the row's fixed bits. -/

namespace Sys2Proof.Laws

/-- Bits `lo` to `lo + len - 1` of a row hold `value`. -/
structure Fixed where
  lo : Nat
  len : Nat
  value : Nat
  deriving DecidableEq, Repr

/-- A row of the table: its width, and its fixed bits (the `match` under its `mask`). -/
structure Row where
  width : Nat
  fixed : List Fixed
  deriving DecidableEq, Repr

/-- A frame row whose bits are all fixed. -/
def wholeFrame (value : Nat) : Row := ⟨48, [⟨0, 48, value⟩]⟩

/-- The rows, written from the table's `match` and `mask`. -/
def tableRow : Instr → Row
  | .nop _ => ⟨35, [⟨32, 3, 0⟩]⟩
  | .initCard _ => ⟨35, [⟨32, 3, 1⟩]⟩
  | .capacity _ => ⟨35, [⟨32, 3, 2⟩]⟩
  | .readRegister _ _ => ⟨35, [⟨32, 3, 3⟩]⟩
  | .readBlock _ => ⟨35, [⟨32, 3, 4⟩]⟩
  | .writeBlock _ => ⟨35, [⟨32, 3, 5⟩]⟩
  | .reserved6 _ => ⟨35, [⟨32, 3, 6⟩]⟩
  | .reserved7 _ => ⟨35, [⟨32, 3, 7⟩]⟩
  | .cmd0 => wholeFrame 0x400000000095
  | .cmd1 => wholeFrame 0x4100000000FF
  | .cmd9 => wholeFrame 0x4900000000FF
  | .cmd10 => wholeFrame 0x4A00000000FF
  | .cmd17 _ => ⟨48, [⟨40, 8, 0x51⟩, ⟨0, 17, 0xFF⟩]⟩
  | .cmd24 _ => ⟨48, [⟨40, 8, 0x58⟩, ⟨0, 17, 0xFF⟩]⟩
  | .cmd55 => wholeFrame 0x7700000000FF
  | .acmd41 => wholeFrame 0x6900000000FF
  | .cmdN _ => ⟨48, [⟨46, 2, 1⟩, ⟨0, 40, 0xFF⟩]⟩
  | .r1NotYet _ => ⟨8, [⟨7, 1, 1⟩]⟩
  | .r1Ready => ⟨8, [⟨0, 8, 0x00⟩]⟩
  | .r1Idle => ⟨8, [⟨0, 8, 0x01⟩]⟩
  | .idleByte => ⟨8, [⟨0, 8, 0xFF⟩]⟩
  | .startToken => ⟨8, [⟨0, 8, 0xFE⟩]⟩
  | .dataResAccepted _ => ⟨8, [⟨0, 4, 0x5⟩]⟩
  | .fillByte => ⟨8, [⟨0, 8, 0xFF⟩]⟩

/-- The width and the value of a unit. -/
def unitBits : Wire → Nat × Nat
  | .hostReq w => (35, w.toNat)
  | .frame w => (48, w.toNat)
  | .byte b => (8, b.toNat)

/-- A unit has a row's width and its fixed bits. -/
def fits (u : Wire) (r : Row) : Prop :=
  (unitBits u).1 = r.width ∧ ∀ f ∈ r.fixed, (unitBits u).2 / 2 ^ f.lo % 2 ^ f.len = f.value

/-- A request word as a number (R60). -/
theorem reqWord_toNat (op : BitVec 3) (arg : Word) : (reqWord op arg).toNat = op.toNat * 2 ^ 32 + arg.toNat := by
  unfold reqWord
  rw [BitVec.toNat_append, ← Nat.shiftLeft_add_eq_or_of_lt arg.isLt, Nat.shiftLeft_eq]

/-- A frame as a number (R62). -/
theorem frameWord_toNat (c : Config) (cmd : CmdIndex) (arg : Word) :
    (frameWord c cmd arg).toNat = 2 ^ 46 + cmd.toNat * 2 ^ 40 + arg.toNat * 2 ^ 8 + (checksumByte c cmd).toNat := by
  unfold frameWord
  rw [BitVec.toNat_append, ← Nat.shiftLeft_add_eq_or_of_lt (checksumByte c cmd).isLt, Nat.shiftLeft_eq,
    BitVec.toNat_append, ← Nat.shiftLeft_add_eq_or_of_lt arg.isLt, Nat.shiftLeft_eq,
    BitVec.toNat_append, ← Nat.shiftLeft_add_eq_or_of_lt cmd.isLt, Nat.shiftLeft_eq]
  simp
  omega

/-- The low bits of a block aligned argument. -/
theorem alignedArg_toNat {c : Config} {arg : Word} (h : alignedArg c arg = true) :
    2 ^ c.blockShift ∣ arg.toNat ∨ 32 ≤ c.blockShift := by
  by_cases hs : 32 ≤ c.blockShift
  · exact .inr hs
  · left
    have e : (arg >>> c.blockShift) <<< c.blockShift = arg := by simpa [alignedArg] using h
    have e2 := congrArg BitVec.toNat e
    rw [BitVec.toNat_shiftLeft, BitVec.toNat_ushiftRight, Nat.shiftLeft_eq, Nat.shiftRight_eq_div_pow,
      Nat.mod_eq_of_lt (Nat.lt_of_le_of_lt (Nat.div_mul_le_self _ _) arg.isLt)] at e2
    exact ⟨_, by rw [Nat.mul_comm]; exact e2.symm⟩

/-- The encoding of a well-formed instruction, with the table's constants, is a word of its row. -/
def RowMatch.Statement (i : Instr) : Prop :=
  i.wellFormed Config.atReset = true → fits (encode Config.atReset i) (tableRow i)

/-- The requests. -/
theorem fits_reqWord (op : BitVec 3) (arg : Word) (r : Row) (h : r = ⟨35, [⟨32, 3, op.toNat⟩]⟩) :
    fits (.hostReq (reqWord op arg)) r := by
  subst h
  refine ⟨rfl, ?_⟩
  have h1 := op.isLt
  have h2 := arg.isLt
  simp only [unitBits, reqWord_toNat, List.mem_singleton, forall_eq]
  omega

/-- The block frames. -/
theorem fits_blockFrame (cmd : CmdIndex) (arg : Word) (hcmd : cmd ≠ Config.atReset.cmdReset)
    (h : alignedArg Config.atReset arg = true) :
    fits (.frame (frameWord Config.atReset cmd arg)) ⟨48, [⟨40, 8, 64 + cmd.toNat⟩, ⟨0, 17, 0xFF⟩]⟩ := by
  refine ⟨rfl, ?_⟩
  have h1 := cmd.isLt
  have h2 := arg.isLt
  have h3 : 2 ^ 9 ∣ arg.toNat := (alignedArg_toNat h).resolve_right (by decide)
  have h4 : (checksumByte Config.atReset cmd).toNat = 255 := by rw [checksumByte, if_neg hcmd]; rfl
  simp only [unitBits, frameWord_toNat, h4, List.mem_cons, List.not_mem_nil, or_false, forall_eq_or_imp, forall_eq]
  omega

theorem RowMatch.nop (arg : Word) : RowMatch.Statement (.nop arg) := fun _ => fits_reqWord 0#3 arg _ rfl
theorem RowMatch.initCard (arg : Word) : RowMatch.Statement (.initCard arg) := fun _ => fits_reqWord 1#3 arg _ rfl
theorem RowMatch.capacity (arg : Word) : RowMatch.Statement (.capacity arg) := fun _ => fits_reqWord 2#3 arg _ rfl
theorem RowMatch.readRegister (cmd : CmdIndex) (rest : BitVec 26) : RowMatch.Statement (.readRegister cmd rest) :=
  fun _ => fits_reqWord 3#3 (rest ++ cmd) _ rfl
theorem RowMatch.readBlock (n : Word) : RowMatch.Statement (.readBlock n) := fun _ => fits_reqWord 4#3 n _ rfl
theorem RowMatch.writeBlock (n : Word) : RowMatch.Statement (.writeBlock n) := fun _ => fits_reqWord 5#3 n _ rfl
theorem RowMatch.reserved6 (arg : Word) : RowMatch.Statement (.reserved6 arg) := fun _ => fits_reqWord 6#3 arg _ rfl
theorem RowMatch.reserved7 (arg : Word) : RowMatch.Statement (.reserved7 arg) := fun _ => fits_reqWord 7#3 arg _ rfl
theorem RowMatch.cmd0 : RowMatch.Statement .cmd0 := fun _ => ⟨rfl, by decide⟩
theorem RowMatch.cmd1 : RowMatch.Statement .cmd1 := fun _ => ⟨rfl, by decide⟩
theorem RowMatch.cmd9 : RowMatch.Statement .cmd9 := fun _ => ⟨rfl, by decide⟩
theorem RowMatch.cmd10 : RowMatch.Statement .cmd10 := fun _ => ⟨rfl, by decide⟩
theorem RowMatch.cmd17 (arg : Word) : RowMatch.Statement (.cmd17 arg) := fun h => fits_blockFrame 17#6 arg (by decide) h
theorem RowMatch.cmd24 (arg : Word) : RowMatch.Statement (.cmd24 arg) := fun h => fits_blockFrame 24#6 arg (by decide) h
theorem RowMatch.cmd55 : RowMatch.Statement .cmd55 := fun _ => ⟨rfl, by decide⟩
theorem RowMatch.acmd41 : RowMatch.Statement .acmd41 := fun _ => ⟨rfl, by decide⟩

theorem RowMatch.cmdN (cmd : CmdIndex) : RowMatch.Statement (.cmdN cmd) := by
  intro h
  refine ⟨rfl, ?_⟩
  have h1 := cmd.isLt
  have hcmd : cmd ≠ Config.atReset.cmdReset := by
    rintro rfl
    revert h
    decide
  have h4 : (checksumByte Config.atReset cmd).toNat = 255 := by rw [checksumByte, if_neg hcmd]; rfl
  simp only [tableRow, encode, unitBits, frameWord_toNat, h4, List.mem_cons, List.not_mem_nil, or_false,
    forall_eq_or_imp, forall_eq, BitVec.toNat_ofNat]
  omega

theorem RowMatch.r1NotYet (low : BitVec 7) : RowMatch.Statement (.r1NotYet low) := by
  intro _
  refine ⟨rfl, ?_⟩
  have h := low.isLt
  simp only [tableRow, encode, unitBits, List.mem_singleton, forall_eq]
  rw [BitVec.toNat_append, ← Nat.shiftLeft_add_eq_or_of_lt low.isLt, Nat.shiftLeft_eq]
  simp
  omega

theorem RowMatch.r1Ready : RowMatch.Statement .r1Ready := fun _ => ⟨rfl, by decide⟩
theorem RowMatch.r1Idle : RowMatch.Statement .r1Idle := fun _ => ⟨rfl, by decide⟩
theorem RowMatch.idleByte : RowMatch.Statement .idleByte := fun _ => ⟨rfl, by decide⟩
theorem RowMatch.startToken : RowMatch.Statement .startToken := fun _ => ⟨rfl, by decide⟩

theorem RowMatch.dataResAccepted (b : Byte) : RowMatch.Statement (.dataResAccepted b) := by
  intro h
  refine ⟨rfl, ?_⟩
  have e0 : b &&& Config.atReset.dataResMask = Config.atReset.dataResAccepted := by simpa [Instr.wellFormed] using h
  have e : b &&& 0x0F#8 = 0x05#8 := e0
  have e2 := congrArg BitVec.toNat e
  have e3 : b.toNat &&& 15 = b.toNat % 16 := Nat.and_two_pow_sub_one_eq_mod b.toNat 4
  simp only [tableRow, encode, unitBits, List.mem_singleton, forall_eq]
  simp [BitVec.toNat_and] at e2
  omega

theorem RowMatch.fillByte : RowMatch.Statement .fillByte := fun _ => ⟨rfl, by decide⟩

end Sys2Proof.Laws
end

