-- ==== Sys2Proof/Tests/Slice0.lean ====
section
/-! SUPPORT. Tests of well-formedness, decoding and single steps, their expected results taken from the spec's encodings
(spec/30_encoding.md), its test vectors (spec/95_test_vectors.md, cited by their ids) or hand calculation; then, for every
statement with hypotheses, a theorem that shows values meeting them. -/

namespace Sys2Proof.Tests
open Sys2Proof Sys2Proof.Machine

/-! ## Helpers -/

/-- The table's constants with a strategy and an abort choice: the configuration of the spec's vectors. -/
abbrev std : Config := Config.standard .legacy false

/-- A small well-formed configuration: blocks of 16 bytes. -/
abbrev tiny : Config := { std with blockLen := 16, primeBytes := 2 }

/-- The state after reset with queued answers. -/
def fed (c : Config) (rx : List Byte) (ticks : List Nat) : State := { State.resetOf c with rx := rx, ticks := ticks }

/-- In the middle of an operation. -/
def mid (c : Config) (op : BitVec 3) (p : Pos) (rx : List Byte) (ticks : List Nat) : State :=
  { State.resetOf c with busy := true, cs := true, opReg := op, pos := p, rx := rx, ticks := ticks }

/-- A host move in front of a state. -/
def move (m : HostMove) (s : State) : State := { s with host := [m] }

/-- The next state, where there is one. -/
def nextOf : Result → Option State
  | .next t => some t
  | .fault _ | .refused _ => none

/-- The fault, where there is one. -/
def faultOf : Result → Option Fault
  | .fault f => some f
  | .next _ | .refused _ => none

/-- What the host sees of a result. -/
def seen (r : Result) : Option (Bool × Bool × Byte × Byte × Word) :=
  (nextOf r).map fun t => (t.busy, t.ok, t.errorCode, t.errorData, t.capacityOut)

/-- The history of a result, oldest first, without the deselect of reset. -/
def trace (r : Result) : Option (List Event) := (nextOf r).map fun t => t.hist.reverse.tail

/-- The events of a list of sent bytes. -/
def sends (bs : List Byte) : List Event := bs.map .send

/-! ## Well-formedness: each check refuses an ill-formed term -/

theorem test_wf_cmd17_unaligned : (Instr.cmd17 0x00000100#32).wellFormed std = false := by decide
theorem test_wf_cmd24_unaligned : (Instr.cmd24 0x000001FF#32).wellFormed std = false := by decide
theorem test_wf_cmdN_named : (Instr.cmdN 9#6).wellFormed std = false := by decide
theorem test_wf_dataRes_rejected : (Instr.dataResAccepted 0x0B#8).wellFormed std = false := by decide
theorem test_wf_config_timeout : ({ std with initTimeoutMs := 0xFFFF } : Config).wf = false := by decide
theorem test_wf_config_std : std.wf = true := by decide
theorem test_wf_config_tiny : tiny.wf = true := by decide

/-! ## Decoding: words written out bit by bit from 30_encoding.md -/

/-- `op = 000`, any argument. -/
theorem test_decode_nop : decodeTableWord 35 0b00000000000000000000000000000000101 = some (.nop 5#32) := by decide
/-- E-1: `op = 001`. -/
theorem test_decode_initialize : decodeTableWord 35 0b00100000000000000000000000000000000 = some (.initCard 0#32) := by decide
/-- `op = 010`. -/
theorem test_decode_capacity : decodeTableWord 35 0b01000000000000000000000000000000001 = some (.capacity 1#32) := by decide
/-- E-3: `cmd = arg[5:0] = 9`, the other bits of the argument ignored. -/
theorem test_decode_readRegister :
    decodeTableWord 35 0b01111111111111111111111111111001001 = some (.readRegister 9#6 0x3FFFFFF#26) := by decide
/-- `op = 100`. -/
theorem test_decode_readBlock : decodeTableWord 35 0b10000000000000000000000000001100100 = some (.readBlock 100#32) := by decide
/-- E-4: `op = 101`, block 100. -/
theorem test_decode_writeBlock : decodeTableWord 35 0b10100000000000000000000000001100100 = some (.writeBlock 100#32) := by decide
/-- E-5: `op = 110`. -/
theorem test_decode_reserved6 : decodeTableWord 35 0b11000000000000000000000000000000000 = some (.reserved6 0#32) := by decide
/-- `op = 111`. -/
theorem test_decode_reserved7 : decodeTableWord 35 0b11100000000000000000000000000000000 = some (.reserved7 0#32) := by decide
/-- E-7: 01, index 000000, argument 0, checksum 0x95. -/
theorem test_decode_cmd0 :
    decodeTableWord 48 0b010000000000000000000000000000000000000010010101 = some .cmd0 := by decide
/-- E-8: 01, index 000001, argument 0, checksum 0xFF. -/
theorem test_decode_cmd1 :
    decodeTableWord 48 0b010000010000000000000000000000000000000011111111 = some .cmd1 := by decide
/-- E-9: index 001001. -/
theorem test_decode_cmd9 :
    decodeTableWord 48 0b010010010000000000000000000000000000000011111111 = some .cmd9 := by decide
/-- E-10: index 001010. -/
theorem test_decode_cmd10 :
    decodeTableWord 48 0b010010100000000000000000000000000000000011111111 = some .cmd10 := by decide
/-- E-11: `51 12 34 56 00 FF`. -/
theorem test_decode_cmd17 :
    decodeTableWord 48 0b010100010001001000110100010101100000000011111111 = some (.cmd17 0x12345600#32) := by decide
/-- E-12: `58 00 00 C8 00 FF`. -/
theorem test_decode_cmd24 :
    decodeTableWord 48 0b010110000000000000000000110010000000000011111111 = some (.cmd24 0x0000C800#32) := by decide
/-- E-13: index 110111. -/
theorem test_decode_cmd55 :
    decodeTableWord 48 0b011101110000000000000000000000000000000011111111 = some .cmd55 := by decide
/-- E-14: index 101001. -/
theorem test_decode_acmd41 :
    decodeTableWord 48 0b011010010000000000000000000000000000000011111111 = some .acmd41 := by decide
/-- E-15: index 111111, byte 0 is 7F. -/
theorem test_decode_cmdN :
    decodeTableWord 48 0b011111110000000000000000000000000000000011111111 = some (.cmdN 63#6) := by decide
/-- Bit 7 set. -/
theorem test_decode_r1NotYet : decodeTableWord 8 0b10100011 = some (.r1NotYet 0b0100011#7) := by decide
theorem test_decode_r1Ready : decodeTableWord 8 0b00000000 = some .r1Ready := by decide
theorem test_decode_r1Idle : decodeTableWord 8 0b00000001 = some .r1Idle := by decide
theorem test_decode_idleByte : decodeTableWord 8 0b11111111 = some .idleByte := by decide
theorem test_decode_startToken : decodeTableWord 8 0b11111110 = some .startToken := by decide
/-- Low nibble 5. -/
theorem test_decode_dataResAccepted : decodeTableWord 8 0b00000101 = some (.dataResAccepted 0x05#8) := by decide
/-- The filler where a filler stands; the byte alone reads as the idle byte (log 13). -/
theorem test_decode_fillByte : decodeByte std .filler 0b11111111#8 = .ok .fillByte := rfl
/-- Start bits 00, a wrong checksum and an argument no row has are refused. -/
theorem test_decode_refuses : decodeTableWord 48 0x0000000000FF = none ∧ decodeTableWord 48 0x4000000000FF = none ∧
    decodeTableWord 48 0x4100000200FF = none ∧ decodeTableWord 48 0x5100000100FF = none ∧
    decodeTableWord 36 0 = none ∧ decodeTableWord 35 0x800000000 = none := by decide
/-- R67: neither the ready nor the idle response. -/
theorem test_decode_otherResponse : decodeByte std .response 0x04#8 = .error .otherByte := rfl
/-- R69: `0x0B` is no accepting data response. -/
theorem test_decode_otherDataResponse : decodeByte std .dataResponse 0x0B#8 = .error .otherByte := rfl

/-! ## Values -/

/-- S4: the byte addresses at the edge. -/
theorem test_blockAddr : blockAddr std 0x7FFFFF#32 = 0xFFFFFE00#32 ∧ blockAddr std 0x800000#32 = 0#32 ∧
    blockAddr std 0x800001#32 = 0x200#32 := by decide
/-- S2 and S2b: the two capacity values. -/
theorem test_capacityValue : capacityValue 9#4 0x3FF#12 1#3 = some 8192#32 ∧ capacityValue 9#4 0x3FF#12 0#3 = some 4096#32 ∧
    capacityValue 0#4 0x3FF#12 0#3 = none := by decide
/-- S2: the fields of its register image. -/
theorem test_csdFields : csdReadBlLen 0x09#8 = 9#4 ∧ csdCSize 0x00#8 0xFF#8 0xC0#8 = 0x3FF#12 ∧
    csdCSizeMult 0x00#8 0x80#8 = 1#3 := by decide
/-- The tick rolls over: from 65530 to 4 is 10 (R92). -/
theorem test_elapsed_rollover : elapsed std 4 65530 = 10 := by decide
/-- R92: strictly greater. -/
theorem test_expired_strict : expired std 2000 2000 0 = false ∧ expired std 2000 2001 0 = true := by decide
/-- S5: which data responses accept. -/
theorem test_dataAccepted : dataAccepted std 0xE5#8 = true ∧ dataAccepted std 0x15#8 = true ∧
    dataAccepted std 0x0D#8 = false ∧ dataAccepted std 0xFF#8 = false := by decide

/-! ## Steps -/

/-- S2: the capacity of its register image. -/
theorem test_capacity_S2 :
    seen (exec (.capacity 0#32) (fed std
      [0xFF#8, 0x00#8, 0xFF#8, 0xFE#8, 0x00#8, 0x00#8, 0x00#8, 0x00#8, 0x00#8, 0x09#8, 0x00#8, 0xFF#8, 0xC0#8, 0x00#8,
       0x80#8, 0x00#8, 0x00#8, 0x00#8, 0x00#8, 0x00#8, 0xAA#8, 0xBB#8] [10, 10])) =
    some (false, true, 0#8, 0#8, 0x2000#32) := by decide

/-- S1b: the first lines of `initialize` under LEGACY, on the wire. -/
theorem test_initialize_trace : trace (exec (.initCard 0#32) (fed std [0xFF#8, 0x01#8, 0xFF#8, 0x00#8] [0])) =
    some ([.tick 0, .slowClock, .desel] ++ sends (List.replicate 10 0xFF#8) ++ [.sel, .sel, .recv 0xFF#8] ++
      sends [0x40#8, 0x00#8, 0x00#8, 0x00#8, 0x00#8, 0x95#8] ++ [.recv 0x01#8, .sel, .recv 0xFF#8] ++
      sends [0x41#8, 0x00#8, 0x00#8, 0x00#8, 0x00#8, 0xFF#8] ++ [.recv 0x00#8, .desel]) := by decide

/-- S1b: the ready handshake times out at `t=3000`, not at `t=2000`. -/
theorem test_initialize_timeout : seen (exec (.initCard 0#32) (fed std
      [0xFF#8, 0x01#8, 0xFF#8, 0x01#8, 0xFF#8, 0x01#8, 0xFF#8, 0x01#8] [0, 1000, 2000, 3000])) =
    some (false, false, 3#8, 0x01#8, 0#32) := by decide

/-- S1c: the same under ACMD, error 2. -/
theorem test_initialize_timeout_acmd : seen (exec (.initCard 0#32) (fed { std with initStrategy := .acmd }
      [0xFF#8, 0x01#8, 0xFF#8, 0x01#8, 0xFF#8, 0x01#8, 0xFF#8, 0x01#8, 0xFF#8, 0x01#8] [0, 1500, 2500])) =
    some (false, false, 2#8, 0x01#8, 0#32) := by decide

/-- S5 with a short block: a rejecting data response. -/
theorem test_writeBlock_rejectedData : seen (exec (.writeBlock 7#32)
      { fed tiny [0xFF#8, 0x00#8, 0x0B#8] [] with buf := fillFrom [] 0 (List.replicate 16 0x5A#8) }) =
    some (false, false, 7#8, 0x0B#8, 0#32) := by decide

/-- A rejected read: error 5 with the response, no tick read (R148). -/
theorem test_readBlock_rejected : trace (exec (.readBlock 100#32) (fed std [0xFF#8, 0xFF#8, 0x20#8] [])) =
    some ([.sel, .recv 0xFF#8] ++ sends [0x51#8, 0x00#8, 0x00#8, 0xC8#8, 0x00#8, 0xFF#8] ++
      [.recv 0xFF#8, .recv 0x20#8, .desel]) := by decide

/-- A short block arrives in index order (R45). -/
theorem test_readBlock_inOrder : ((nextOf (exec (.readBlock 0#32) (fed tiny
      ([0xFF#8, 0x00#8, 0xFE#8] ++ (List.range 16).map (BitVec.ofNat 8) ++ [0x11#8, 0x22#8]) [0]))).map State.buf) =
    some ((List.range 16).map fun i => (i, BitVec.ofNat 8 i)) := by decide

/-- R145: the register named by `arg[5:0]`. -/
theorem test_readRegister_frame : trace (exec (.readRegister 10#6 0#26) (fed std [0xFF#8, 0x05#8] [])) =
    some ([.sel, .recv 0xFF#8] ++ sends [0x4A#8, 0x00#8, 0x00#8, 0x00#8, 0x00#8, 0xFF#8] ++ [.recv 0x05#8, .desel]) := by decide

/-- R24: a request while busy is ignored. -/
theorem test_request_busy : nextOf (exec (.readBlock 1#32) (mid std 5#3 .wrAck [] [])) = some (mid std 5#3 .wrAck [] []) := by
  decide

/-- E-5: a reserved request. -/
theorem test_reserved6 : seen (exec (.reserved6 9#32) { fed std [] [] with ok := true, errorCode := 3#8 }) =
    some (false, false, 3#8, 0#8, 0#32) := by decide

/-- R26, U9: the host writes `BUF` while SDCORE is busy. -/
theorem test_hostWrite_race : faultOf (step (move (.writeBuf 3 0#8) (mid std 5#3 .wrAck [] []))) = some (.bufRace 3) := by decide

/-- R28, R209: a write of a `BUF` nothing has written. -/
theorem test_writeBlock_unwritten : faultOf (exec (.writeBlock 0#32) (fed tiny [0xFF#8, 0x00#8] [])) =
    some (.unwrittenCell .buf 0) := by decide

/-- R190: reset in the middle of a write. -/
theorem test_reset_midway : seen (step (move .reset { mid std 5#3 .wrAck [] [] with errorCode := 4#8 })) =
    some (false, false, 0#8, 0#8, 0#32) := by decide

/-- R191: reset two bytes into a frame. The rest is never sent, and the card is deselected. -/
theorem test_reset_midframe : trace (Sys2Proof.core.run 3
      { mid std 4#3 (.cmdFrame .readBlk) [] [] with host := [.pass, .pass, .reset] }) =
    some (sends [0x51#8, 0x00#8] ++ [.desel]) := by decide

/-- R191: reset after the idle byte, though the whole exchange is queued. -/
theorem test_reset_between_queued_answers : trace (Sys2Proof.core.run 4
      { fed std [0xFF#8, 0xFF#8, 0x20#8] [] with host := [.request 0x400000064#35, .pass, .pass, .reset] }) =
    some [.sel, .recv 0xFF#8, .desel] := by decide

/-- R191: reset between a payload byte's receive and the write of its cell. -/
theorem test_reset_midpayload : trace (Sys2Proof.core.run 2
      { mid tiny 4#3 (.payload .block) [0xA5#8, 0xA6#8] [] with host := [.pass, .reset] }) =
    some [.recv 0xA5#8, .desel] := by decide

/-- A frame placed after reset is fetched and sent. -/
theorem test_placed_frame : ((nextOf (step (State.reset.withFetchWord 48 0x580000C800FF))).map fun t => t.hist.reverse.tail) =
    some (sends [0x58#8, 0x00#8, 0x00#8, 0xC8#8, 0x00#8, 0xFF#8]) := by decide

/-- A byte placed after reset is received in the response poll. -/
theorem test_placed_byte : ((nextOf (step (State.reset.withFetchWord 8 0x80))).map fun t => (t.r1, t.polls)) =
    some (0x80#8, 1) := by decide

/-! ## Witnesses: for each statement with hypotheses, values that meet them all -/

/-- An answered CARDCMD: one busy byte, the idle byte, one byte that is no response, the response. -/
def answered (r : Byte) : Exchange := ⟨[0x00#8], [0xFF#8], r⟩

theorem answered_of (c : Config) (r : Byte) (h : notYet r = false) (h0 : 0x00#8 ≠ c.idleByte) (h1 : 1 < c.cmdRespPolls) :
    AnswersCmd c (answered r) := by
  refine ⟨?_, ?_, h1, ?_⟩
  · intro b hb
    obtain rfl := List.mem_singleton.1 hb
    exact h0
  · intro b hb
    obtain rfl := List.mem_singleton.1 hb
    decide
  · simp [pollEnds, answered, h]

theorem answered_ok (r : Byte) (h : notYet r = false) : AnswersCmd std (answered r) :=
  answered_of std r h (by decide) (by decide)

theorem answered_tiny (r : Byte) (h : notYet r = false) : AnswersCmd tiny (answered r) :=
  answered_of tiny r h (by decide) (by decide)

/-- The invariant in a small state: the clauses that mention memory are empty there. -/
theorem invariant_of {s : State} (hc : s.cfg.wf = true) (hbuf : s.buf = []) (hcsdr : s.csdr = [])
    (hb : s.busy = true ↔ s.pos ≠ .idle) (ho : ∀ op, posOp s.pos = some op → s.opReg = op) (hs : csAsPos s = true)
    (hn : countersAsPos s = true ∧ s.polls ≤ s.cfg.cmdRespPolls ∧ s.idx ≤ s.cfg.blockLen) (ht : s.t0 < 2 ^ s.cfg.tickW)
    (he : s.errorCode.toNat ≤ 8) (hx : csdrAsPos s) (hst : strategyAsPos s = true) (hf : frameAsPos s) : Invariant s :=
  ⟨hc, by simp [hbuf], by simp [hcsdr], hb, ho, hs, hn, ht, he, hx, hst, hf⟩

theorem invariant_reset : Invariant (State.resetOf tiny) :=
  invariant_of (by decide) rfl rfl (by decide) (by decide) (by decide) (by decide) (by decide) (by decide) trivial (by decide) trivial

/-- A write about to read the first cell of a `BUF` nothing has written. -/
theorem invariant_wrData : Invariant (mid tiny 5#3 .wrData [] []) :=
  invariant_of (by decide) rfl rfl (by decide) (by decide) (by decide) (by decide) (by decide) (by decide) trivial (by decide) trivial

theorem invariant_host {s : State} (h : Invariant s) (m : List HostMove) : Invariant { s with host := m } :=
  ⟨h.config, h.bufForm, h.csdrForm, h.busyIff, h.operation, h.select, h.counters, h.startTick, h.codes, h.scratch,
    h.strategy, h.frame⟩

theorem witness_DecodeOfEncode : std.wf = true ∧ (Instr.cmd17 0xFFFFFE00#32).wellFormed std = true ∧
    (Instr.cmd24 0x200#32).wellFormed std = true ∧ (Instr.cmdN 63#6).wellFormed std = true ∧
    (Instr.cmdN 2#6).wellFormed std = true ∧ (Instr.dataResAccepted 0xF5#8).wellFormed std = true := by decide

theorem witness_EncodeOfDecode : decode std .busIdle (.hostReq 0x700000000#35) = .ok (.reserved7 0#32) ∧
    decode std .busIdle (.frame 0x51FFFFFE00FF#48) = .ok (.cmd17 0xFFFFFE00#32) ∧
    decode std .dataResponse (.byte 0x15#8) = .ok (.dataResAccepted 0x15#8) := ⟨rfl, rfl, rfl⟩

theorem witness_CommandAndArgumentBytes : (mid std 4#3 (.cmdFrame .readBlk) [] []).host = [] ∧
    (mid std 4#3 (.cmdFrame .readBlk) [] []).pos = .cmdFrame .readBlk ∧
    (mid std 4#3 (.cmdFrame .readBlk) [] []).cfg.frameLen = 6 := by decide

theorem witness_EmittedFramesDecode : std.wf = true ∧ argCmd 0xFFFFFFCA#32 = std.cmdReadCid ∧
    argCmd 0x49#32 = std.cmdReadCsd ∧
    argCmd 63#32 ∉ std.namedIndices ∧ argCmd 2#32 ∉ std.namedIndices := by decide

theorem witness_StepRunsTheDecodedUnit :
    (move (.request 0x200000000#35) (fed std [] [])).host = [.request 0x200000000#35] ∧
    ((mid std 4#3 (.cmdPoll .readBlk) [0x00#8] []).host = [] ∧
      recvCtx (mid std 4#3 (.cmdPoll .readBlk) [0x00#8] []).pos = some .response ∧
      decodeByte std .response 0x00#8 = .ok .r1Ready) ∧
    ((mid std 4#3 (.cmdFrame .readBlk) [] []).pos = .cmdFrame .readBlk ∧
      decodeFrame std (callFrame std 0#32 .readBlk) = .ok (.cmd17 0#32)) ∧
    sendsFill (mid std 5#3 (.wrFill 2) [] []).pos = true ∧ (mid std 5#3 .wrToken [] []).pos = .wrToken :=
  ⟨rfl, ⟨rfl, rfl, rfl⟩, ⟨rfl, rfl⟩, rfl, rfl⟩

theorem witness_StepIsTheSequencersEvent : (mid std 5#3 .wrAck [0x05#8] []).host = [] ∧
    (move .pass (mid std 5#3 .wrAck [0x05#8] [])).host = [.pass] := by decide

theorem witness_PlacedWordIsFetched : decodeTableWord 48 0x580000C800FF = some (.cmd24 0x0000C800#32) ∧
    decodeTableWord 40 0x100000000 = some (.initCard 0#32) ∧ decodeTableWord 8 0xFE = some .startToken := by decide

theorem witness_InvAtReset : std.wf = true ∧ tiny.wf = true := by decide

theorem witness_StepKeepsInv : Invariant (move (.writeBuf 15 0x5A#8) (State.resetOf tiny)) ∧
    ∃ t, step (move (.writeBuf 15 0x5A#8) (State.resetOf tiny)) = .next t :=
  ⟨invariant_host invariant_reset _, _, rfl⟩

theorem witness_OnlyTheNamedFaults :
    (Invariant (mid tiny 5#3 .wrData [] []) ∧ step (mid tiny 5#3 .wrData [] []) = .fault (.unwrittenCell .buf 0)) ∧
    (Invariant (move (.readBuf 3) (mid tiny 5#3 .wrData [] [])) ∧
      step (move (.readBuf 3) (mid tiny 5#3 .wrData [] [])) = .fault (.bufRace 3)) ∧
    (Invariant (move (.readBuf 16) (State.resetOf tiny)) ∧
      step (move (.readBuf 16) (State.resetOf tiny)) = .fault (.noSuchCell .buf 16)) :=
  ⟨⟨invariant_wrData, rfl⟩, ⟨invariant_host invariant_wrData _, rfl⟩, ⟨invariant_host invariant_reset _, rfl⟩⟩

theorem witness_EveryExitPathDeselects : (fed std [0xFF#8, 0x04#8] []).busy = false ∧
    ∃ t, exec (.capacity 0#32) (fed std [0xFF#8, 0x04#8] []) = .next t ∧ t.busy = false := ⟨rfl, _, rfl, rfl⟩

theorem witness_OperationRunsToCompletion : ((fed std [0xFF#8] []).busy = false ∧ (fed std [0xFF#8] []).host = [] ∧
    ∃ t, exec (.readBlock 0#32) (fed std [0xFF#8] []) = .next t) ∧ (move .reset (fed std [0xFF#8] [])).busy = false ∧
    (move .reset (fed std [0xFF#8] [])).host ≠ [] := ⟨⟨rfl, rfl, _, rfl⟩, rfl, by decide⟩

theorem witness_ConfigurationIsConstant : ∃ t, step (mid std 5#3 .wrAck [0x05#8] []) = .next t := ⟨_, rfl⟩

theorem witness_HistoryOnlyGrows : (∃ t, step (move .reset (mid std 5#3 .wrAck [] [])) = .next t) ∧
    ∃ t, step { mid std 5#3 .wrToken [] [] with host := [.pass, .reset] } = .next t ∧ t.host ≠ [] ∧
      t.hist = [.send 0xFE#8, .desel] := ⟨⟨_, rfl⟩, _, rfl, by decide, rfl⟩

theorem witness_OperandsAreSampledOnce :
    let s := move (.request 0x400000001#35) (mid std 5#3 .wrAck [] [])
    s.busy = true ∧ (∀ rest, s.host ≠ .reset :: rest) ∧ ∃ t, step s = .next t :=
  ⟨rfl, by simp [move], _, rfl⟩

theorem witness_ResultsUnchangedWhileBusy :
    let s := mid std 5#3 .wrAck [0x05#8] []
    s.busy = true ∧ ∃ t, step s = .next t ∧ t.busy = true := ⟨rfl, _, rfl, rfl⟩

theorem witness_ReservedCodesNeverRaised :
    let s := { mid std 5#3 (.latch .busyTimeout) [] [] with errorCode := 8#8 }
    s.errorCode.toNat ≤ 8 ∧ ∃ t, step s = .next t ∧ t.errorCode = 8#8 := ⟨by decide, _, rfl, rfl⟩

theorem witness_ErrorClearedOnlyByInitializeOrReset :
    (let s := move (.request 0x100000000#35) { fed std [] [] with errorCode := 5#8 }
     ∃ t, step s = .next t ∧ s.errorCode ≠ 0#8 ∧ t.errorCode = 0#8) ∧
    (let s := move .reset { fed std [] [] with errorCode := 5#8 }
     s.host = [.reset] ∧ ∃ t, step s = .next t ∧ s.errorCode ≠ 0#8 ∧ t.errorCode = 0#8) :=
  ⟨⟨_, rfl, by decide, rfl⟩, rfl, _, rfl, by decide, rfl⟩

theorem witness_ErrorPersistsWithoutLatch : (4#3 : BitVec 3) ≠ 1#3 ∧
    ∃ t, LatchFreeRun (beginOperation (accept 4#3 0#32 (fed std [] []))) t ∧ t.pos = .cmdIdle .readBlk :=
  ⟨by decide, _, .event _ _ _ (by simp [beginOperation, accept, goto]) rfl (.refl _), rfl⟩

/-- The last event of a write whose busy wait ran out, and events of operations from reset on. -/
theorem witness_ErrorsOfEachOperation (arg : Word) (cmd : CmdIndex) (top : BitVec 26) :
    (Invariant (mid tiny 5#3 (.latch .busyTimeout) [] []) ∧
      ∃ t, seqStep (mid tiny 5#3 (.latch .busyTimeout) [] []) = .next t ∧ t.errorCode = 8#8) ∧
    (fed std [] []).busy = false ∧ (∃ t, exec (.initCard arg) (fed std [] []) = .next t) ∧
    (∃ t, exec (.capacity arg) (fed std [] []) = .next t) ∧
    (∃ t, exec (.readRegister cmd top) (fed std [] []) = .next t) ∧
    (∃ t, exec (.readBlock arg) (fed std [] []) = .next t) ∧ (∃ t, exec (.writeBlock arg) (fed std [] []) = .next t) :=
  ⟨⟨invariant_of (by decide) rfl rfl (by decide) (by decide) (by decide) (by decide) (by decide) (by decide) trivial
    (by decide) trivial, _, rfl, rfl⟩, rfl, ⟨_, rfl⟩, ⟨_, rfl⟩, ⟨_, rfl⟩, ⟨_, rfl⟩, ⟨_, rfl⟩⟩

/-- The cells at the boundaries: 16 is the first that `readRegister` leaves, 512 the first that `readBlock` leaves. -/
theorem witness_RequestsFrame (arg : Word) (cmd : CmdIndex) (top : BitVec 26) :
    (Invariant (mid tiny 4#3 (.store .block 0xA5#8) [] []) ∧
      ∃ t, seqStep (mid tiny 4#3 (.store .block 0xA5#8) [] []) = .next t ∧ t.buf = [(0, 0xA5#8)]) ∧
    (∃ t, exec (.nop arg) (fed std [] []) = .next t) ∧ (∃ t, exec (.initCard arg) (fed std [] []) = .next t) ∧
    (∃ t, exec (.capacity arg) (fed std [] []) = .next t) ∧
    (std.regLen ≤ 16 ∧ ∃ t, exec (.readRegister cmd top) (fed std [] []) = .next t) ∧
    (std.blockLen ≤ 512 ∧ ∃ t, exec (.readBlock arg) (fed std [] []) = .next t) ∧
    (∃ t, exec (.writeBlock arg) (fed std [] []) = .next t) ∧ (∃ t, exec (.reserved6 arg) (fed std [] []) = .next t) ∧
    (∃ t, exec (.reserved7 arg) (fed std [] []) = .next t) :=
  ⟨⟨invariant_of (by decide) rfl rfl (by decide) (by decide) (by decide) (by decide) (by decide) (by decide) trivial
    (by decide) trivial, _, rfl, rfl⟩, ⟨_, rfl⟩, ⟨_, rfl⟩, ⟨_, rfl⟩, ⟨by decide, _, rfl⟩, ⟨by decide, _, rfl⟩, ⟨_, rfl⟩, ⟨_, rfl⟩, ⟨_, rfl⟩⟩

theorem witness_RequestsThatStartNothing : (fed std [] []).busy = false ∧ (mid std 5#3 .wrAck [] []).busy = true := by decide

/-- The first and the last cell, the first index outside; for a read also the last cell written, and never written. -/
theorem witness_HostAccessesBufWhenIdle :
    (∀ m ∈ [HostMove.writeBuf 0 1#8, .readBuf 0],
      (move m (mid std 5#3 .wrAck [] [])).host = [m] ∧ (mid std 5#3 .wrAck [] []).busy = true) ∧
    ((move (.writeBuf 511 1#8) (fed std [] [])).host = [.writeBuf 511 1#8] ∧ (fed std [] []).busy = false ∧
      511 < std.blockLen) ∧
    (let s := move (.readBuf 511) { fed std [] [] with buf := [(511, 0xA5#8)] }
     s.host = [.readBuf 511] ∧ s.busy = false ∧ readCell s.buf 511 = some 0xA5#8) ∧
    (let s := move (.readBuf 511) (fed std [] [])
     s.host = [.readBuf 511] ∧ s.busy = false ∧ readCell s.buf 511 = none) ∧
    (∀ m ∈ [HostMove.writeBuf 512 1#8, .readBuf 512], (move m (fed std [] [])).host = [m] ∧ std.blockLen ≤ 512) := by
  decide

theorem witness_ResetValues : (move .reset (mid std 5#3 .wrAck [] [])).host = [.reset] ∧
    ∃ t, step { mid std 4#3 (.cmdFrame .readBlk) [] [] with host := [.pass, .reset] } = .next t ∧
      t.pos = .cmdSend .readBlk [0x00#8, 0x00#8, 0x00#8, 0x00#8, 0xFF#8] := ⟨by decide, _, rfl, by decide⟩

theorem witness_LatchDoesThreeThings :
    ((mid std 4#3 (.latch .readRejected) [] []).host = [] ∧ (∀ x, LatchSite.readRejected ≠ .tokenTimeout x) ∧
      LatchSite.readRejected ≠ .busyTimeout) ∧
    (let s := mid { std with rdTimeoutAbort := true } 4#3 (.latch (.tokenTimeout .block)) [] []
     s.pos = .latch (.tokenTimeout .block) ∧ s.cfg.rdTimeoutAbort = true) ∧
    (mid std 4#3 (.latch (.tokenTimeout .block)) [] []).cfg.rdTimeoutAbort = false ∧
    (mid std 5#3 (.latch .busyTimeout) [] []).pos = .latch .busyTimeout :=
  ⟨⟨rfl, by simp, by decide⟩, ⟨rfl, rfl⟩, rfl, rfl⟩

theorem witness_ErrorTable :
    (∀ site, (mid std 1#3 (.latch site) [] []).host = [] ∧ (mid std 1#3 (.latch site) [] []).pos = .latch site) ∧
    (mid std 1#3 (.latch .readyFailed) [] []).cfg.initStrategy = .legacy ∧
    (mid { std with initStrategy := .acmd } 1#3 (.latch .readyFailed) [] []).cfg.initStrategy = .acmd ∧
    std.rdTimeoutAbort = false ∧ ({ std with rdTimeoutAbort := true } : Config).rdTimeoutAbort = true ∧
    0 < xferLen std .capacity ∧ 0 < xferLen std .register ∧ 0 < xferLen std .block :=
  ⟨fun _ => ⟨rfl, rfl⟩, rfl, rfl, rfl, rfl, by decide, by decide, by decide⟩

theorem witness_FrameRowsTransmit (call : Call) (left : List Byte) :
    (std.wf = true ∧ (mid std 4#3 (.cmdFrame call) [] []).pos = .cmdFrame call) ∧
    ((mid std 4#3 (.cmdSend call left) [] []).pos = .cmdSend call left ∧
      (mid std 4#3 (.cmdSend call left) [] []).host = []) ∧
    ({ mid std 4#3 (.cmdSend call [0xFF#8]) [] [] with host := [.pass, .reset] } : State).host = [.pass, .reset] :=
  ⟨⟨by decide, rfl⟩, ⟨rfl, rfl⟩, rfl⟩

/-- Both branches: one receive to go, and none. -/
theorem witness_NotYetByteInPoll (call : Call) :
    (let s := { mid std 4#3 (.cmdPoll call) [] [] with polls := 254 }
     s.cfg.wf = true ∧ s.pos = .cmdPoll call ∧ s.polls + 1 = s.cfg.cmdRespPolls) ∧
    (let s := { mid std 4#3 (.cmdPoll call) [] [] with polls := 253 }
     s.cfg.wf = true ∧ s.pos = .cmdPoll call ∧ s.polls + 1 ≠ s.cfg.cmdRespPolls) :=
  ⟨⟨(by decide : std.wf = true), rfl, rfl⟩, (by decide : std.wf = true), rfl, (by decide : 253 + 1 ≠ std.cmdRespPolls)⟩

theorem witness_ReadyAndIdleResponses (call : Call) :
    (mid std 4#3 (.cmdPoll call) [] []).cfg.wf = true ∧ (mid std 4#3 (.cmdPoll call) [] []).pos = .cmdPoll call :=
  ⟨(by decide : std.wf = true), rfl⟩

theorem witness_IdleByteEndsTheWaits (call : Call) : (mid std 4#3 (.cmdIdle call) [] []).pos = .cmdIdle call ∧
    (mid std 5#3 (.tokRecv .writeBusy) [] []).pos = .tokRecv .writeBusy := ⟨rfl, rfl⟩

theorem witness_StartTokenBothWays (x : Xfer) : std.wf = true ∧
    (mid std 4#3 (.tokRecv (.startToken x)) [] []).pos = .tokRecv (.startToken x) ∧
    (mid std 5#3 .wrToken [] []).pos = .wrToken := ⟨by decide, rfl, rfl⟩

theorem witness_DataResponseDecidesTheWrite :
    (mid std 5#3 .wrAck [0x0B#8] []).pos = .wrAck ∧ (0x15#8 : Byte) &&& std.dataResMask = std.dataResAccepted ∧
    (0x0B#8 : Byte) &&& std.dataResMask ≠ std.dataResAccepted ∧ (mid std 5#3 .wrAck [0x0B#8] []).host = [] ∧
    (mid std 5#3 .wrAck [0x0B#8] []).rx = [0x0B#8] := by decide

theorem witness_FillBytePrimesAndPads : (mid std 1#3 (.initPrime 1) [] []).pos = .initPrime (0 + 1) ∧
    (mid std 1#3 (.initPrime 10) [] []).pos = .initPrime (9 + 1) ∧ (mid std 5#3 (.wrFill 1) [] []).pos = .wrFill (0 + 1) ∧
    (mid std 5#3 (.wrFill 2) [] []).pos = .wrFill (1 + 1) := by decide

theorem witness_RowsOutOfPlaceHaveNoEffect :
    (∀ call, (mid std 5#3 .wrAck [] []).pos ≠ .cmdFrame call) ∧ awaitsByte (mid std 5#3 .wrDesel [] []).pos = false ∧
    (mid std 5#3 .wrDesel [] []).pos ≠ .wrToken ∧ sendsFill (mid std 5#3 .wrToken [] []).pos = false :=
  ⟨by simp [mid], rfl, by decide, rfl⟩

/-- The last index of each transfer. -/
theorem witness_PayloadBytesAreStored : std.wf = true ∧
    (let s := { mid std 4#3 (.payload .block) [] [] with idx := 511 }
     s.pos = .payload .block ∧ s.idx < xferLen s.cfg .block) ∧
    (let s := { mid std 2#3 (.payload .capacity) [] [] with idx := 15 }
     s.pos = .payload .capacity ∧ s.idx < xferLen s.cfg .capacity) := by decide

theorem witness_ByteRowsFrame : (∃ t, exec .startToken (mid std 4#3 (.tokRecv (.startToken .block)) [] []) = .next t) ∧
    (∃ t, exec .r1Ready (mid std 4#3 (.payload .block) [] []) = .next t) ∧
    (∃ t, exec .fillByte (mid std 5#3 (.wrFill 1) [] []) = .next t) :=
  ⟨⟨_, rfl⟩, ⟨_, rfl⟩, _, rfl⟩

theorem witness_BusIdleWaitIsUnbounded :
    let s := mid std 4#3 (.cmdIdle .readBlk) [0x00#8, 0x55#8, 0xFE#8] []
    s.host = [] ∧ s.pos = .cmdIdle .readBlk ∧ ∀ b ∈ s.rx, b ≠ s.cfg.idleByte := by decide

theorem witness_ElapsedSurvivesRollover : 65530 ≤ 65536 + 4 ∧ 65536 + 4 - 65530 < 2 ^ std.tickW ∧
    7 ≤ 7 + 65535 ∧ 7 + 65535 - 7 < 2 ^ std.tickW := by decide

/-- Elapsed times at and just past the timeout, for both waits and both phases of `initialize`, and the timeout that never fires. -/
theorem witness_TimedWaitTest :
    (let s := mid std 5#3 (.tokTick .writeBusy) [] [600]
     s.host = [] ∧ s.ticks = [600] ∧ elapsed s.cfg (600 % 2 ^ s.cfg.tickW) s.t0 ≤ waitTimeout s.cfg .writeBusy) ∧
    (let s := mid std 5#3 (.tokTick .writeBusy) [] [601]
     s.ticks = [601] ∧ waitTimeout s.cfg .writeBusy < elapsed s.cfg (601 % 2 ^ s.cfg.tickW) s.t0) ∧
    (let s := mid std 4#3 (.tokTick (.startToken .block)) [] [301]
     s.ticks = [301] ∧ waitTimeout s.cfg (.startToken .block) < elapsed s.cfg (301 % 2 ^ s.cfg.tickW) s.t0) ∧
    (∀ p ∈ [Pos.initResetTick, .initReadyTick], ∀ st ∈ [InitStrategy.legacy, .acmd], ∀ x ∈ [2000, 2001],
      let s := mid { std with initStrategy := st } 1#3 p [] [x]
      s.host = [] ∧ s.ticks = [x] ∧ s.pos = p ∧ s.cfg.initStrategy = st ∧
        (s.cfg.initTimeoutMs < elapsed s.cfg (x % 2 ^ s.cfg.tickW) s.t0 ↔ x = 2001)) ∧
    2 ^ std.tickW - 1 ≤ 0xFFFF := by decide

theorem witness_BlockAddressTruncates : std.blockShift < 32 ∧ std.blockShift = 9 ∧
    (0x7FFFFF#32 : Word).toNat < 2 ^ 23 ∧ ¬ (0x800000#32 : Word).toNat < 2 ^ 23 := by decide

/-- The sum of the two fields just below and at 7. -/
theorem witness_CapacityFormula : (0x00#8 : Byte).toNat % 4 * 2 + (0x80#8 : Byte).toNat / 128 + (0x05#8 : Byte).toNat % 16 < 7 ∧
    7 ≤ (0x00#8 : Byte).toNat % 4 * 2 + (0x80#8 : Byte).toNat / 128 + (0x06#8 : Byte).toNat % 16 := by decide

theorem witness_CanonicalMemoriesAreEqual : Memory.wf [(0, 1#8), (511, 2#8)] ∧
    ∀ i, readCell [(0, 1#8), (511, 2#8)] i = readCell (writeCell [(0, 1#8)] 511 2#8) i := ⟨by decide, fun _ => rfl⟩

/-! The operations, whole. One unsuccessful attempt or miss each where there are any. -/

theorem witness_InitializeLegacySucceeds :
    let tries0 := [(answered 0x00#8, 900)]
    let tries1 := [(answered 0x01#8, 2000)]
    let rx := triesAnswers std tries0 ++ (cmdAnswers std (answered 0x01#8) ++
      (triesAnswers std tries1 ++ (cmdAnswers std (answered 0x00#8) ++ [])))
    let s := fed std rx (0 :: (tries0.map Prod.snd ++ (tries1.map Prod.snd ++ [])))
    s.busy = false ∧ s.host = [] ∧ s.cfg.initStrategy = .legacy ∧ Retries s.cfg s.cfg.r1Idle 0 tries0 ∧
      AnswersCmd s.cfg (answered 0x01#8) ∧ (answered 0x01#8).r = s.cfg.r1Idle ∧ Retries s.cfg s.cfg.r1Ready 0 tries1 ∧
      AnswersCmd s.cfg (answered 0x00#8) ∧ (answered 0x00#8).r = s.cfg.r1Ready ∧ s.rx = rx :=
  ⟨rfl, rfl, rfl, by
    intro a ha
    obtain rfl := List.mem_singleton.1 ha
    exact ⟨answered_ok _ (by decide), by decide, by decide⟩, answered_ok _ (by decide), rfl, by
    intro a ha
    obtain rfl := List.mem_singleton.1 ha
    exact ⟨answered_ok _ (by decide), by decide, by decide⟩, answered_ok _ (by decide), rfl, rfl⟩

theorem answered_acmd (r : Byte) (h : notYet r = false) : AnswersCmd { std with initStrategy := .acmd } (answered r) :=
  answered_of _ r h (by decide) (by decide)

theorem witness_InitializeAcmdSucceeds :
    let c := { std with initStrategy := .acmd }
    let tries0 := [(answered 0x00#8, 900)]
    let tries1 := [(answered 0x01#8, answered 0x01#8, 2000)]
    let rx := triesAnswers c tries0 ++ (cmdAnswers c (answered 0x01#8) ++ (pairAnswers c tries1 ++
      (cmdAnswers c (answered 0x04#8) ++ (cmdAnswers c (answered 0x00#8) ++ []))))
    let s := fed c rx (0 :: (tries0.map Prod.snd ++ (tries1.map (fun a => a.2.2) ++ [])))
    s.busy = false ∧ s.host = [] ∧ s.cfg.initStrategy = .acmd ∧ Retries s.cfg s.cfg.r1Idle 0 tries0 ∧
      AnswersCmd s.cfg (answered 0x01#8) ∧ (answered 0x01#8).r = s.cfg.r1Idle ∧
      PairRetries s.cfg s.cfg.r1Ready 0 tries1 ∧ AnswersCmd s.cfg (answered 0x04#8) ∧
      AnswersCmd s.cfg (answered 0x00#8) ∧ (answered 0x00#8).r = s.cfg.r1Ready ∧ s.rx = rx :=
  ⟨rfl, rfl, rfl, by
    intro a ha
    obtain rfl := List.mem_singleton.1 ha
    exact ⟨answered_acmd _ (by decide), by decide, by decide⟩, answered_acmd _ (by decide), rfl, by
    intro a ha
    obtain rfl := List.mem_singleton.1 ha
    exact ⟨answered_acmd _ (by decide), answered_acmd _ (by decide), by decide, by decide⟩, answered_acmd _ (by decide),
    answered_acmd _ (by decide), rfl, rfl⟩

theorem witness_InitializeResetTimeout :
    let tries := [(answered 0x00#8, 2000)]
    let rx := triesAnswers std tries ++ (cmdAnswers std (answered 0x00#8) ++ [])
    let s := fed std rx (0 :: (tries.map Prod.snd ++ 2001 :: []))
    s.busy = false ∧ s.host = [] ∧ Retries s.cfg s.cfg.r1Idle 0 tries ∧ AnswersCmd s.cfg (answered 0x00#8) ∧
      (answered 0x00#8).r ≠ s.cfg.r1Idle ∧
      expired s.cfg s.cfg.initTimeoutMs (2001 % 2 ^ s.cfg.tickW) (0 % 2 ^ s.cfg.tickW) = true ∧ s.rx = rx :=
  ⟨rfl, rfl, by
    intro a ha
    obtain rfl := List.mem_singleton.1 ha
    exact ⟨answered_ok _ (by decide), by decide, by decide⟩, answered_ok _ (by decide), by decide, by decide, rfl⟩

theorem witness_InitializeReadyTimeout :
    let tries1 := [(answered 0x01#8, 2000)]
    let rx := triesAnswers std [] ++ (cmdAnswers std (answered 0x01#8) ++
      (triesAnswers std tries1 ++ (cmdAnswers std (answered 0x01#8) ++ [])))
    let s := fed std rx (0 :: ([] ++ (tries1.map Prod.snd ++ 3000 :: [])))
    s.busy = false ∧ s.host = [] ∧ s.cfg.initStrategy = .legacy ∧ Retries s.cfg s.cfg.r1Idle 0 [] ∧
      AnswersCmd s.cfg (answered 0x01#8) ∧ (answered 0x01#8).r = s.cfg.r1Idle ∧ Retries s.cfg s.cfg.r1Ready 0 tries1 ∧
      (answered 0x01#8).r ≠ s.cfg.r1Ready ∧
      expired s.cfg s.cfg.initTimeoutMs (3000 % 2 ^ s.cfg.tickW) (0 % 2 ^ s.cfg.tickW) = true ∧ s.rx = rx :=
  ⟨rfl, rfl, rfl, (by intro a ha; cases ha), answered_ok _ (by decide), rfl, by
    intro a ha
    obtain rfl := List.mem_singleton.1 ha
    exact ⟨answered_ok _ (by decide), by decide, by decide⟩, by decide, by decide, rfl⟩

/-- The ACMD clause, on the answers of vector S1c (spec/95_test_vectors.md): one pair in time at 1500, the second past the
timeout at 2500. -/
theorem witness_InitializeReadyTimeout_acmd :
    let c := { std with initStrategy := .acmd }
    let tries1 := [(answered 0x01#8, answered 0x01#8, 1500)]
    let rx := triesAnswers c [] ++ (cmdAnswers c (answered 0x01#8) ++ (pairAnswers c tries1 ++
      (cmdAnswers c (answered 0x01#8) ++ (cmdAnswers c (answered 0x01#8) ++ []))))
    let s := fed c rx (0 :: ([] ++ (tries1.map (fun a => a.2.2) ++ 2500 :: [])))
    s.busy = false ∧ s.host = [] ∧ s.cfg.initStrategy = .acmd ∧ Retries s.cfg s.cfg.r1Idle 0 [] ∧
      AnswersCmd s.cfg (answered 0x01#8) ∧ (answered 0x01#8).r = s.cfg.r1Idle ∧
      PairRetries s.cfg s.cfg.r1Ready 0 tries1 ∧ (answered 0x01#8).r ≠ s.cfg.r1Ready ∧
      expired s.cfg s.cfg.initTimeoutMs (2500 % 2 ^ s.cfg.tickW) (0 % 2 ^ s.cfg.tickW) = true ∧ s.rx = rx :=
  ⟨rfl, rfl, rfl, (by intro a ha; cases ha), answered_acmd _ (by decide), rfl, by
    intro a ha
    obtain rfl := List.mem_singleton.1 ha
    exact ⟨answered_acmd _ (by decide), answered_acmd _ (by decide), by decide, by decide⟩, by decide, by decide, rfl⟩

/-- A miss at each side of a rollover of the tick, both in time. -/
theorem misses_ok : Misses std std.startToken std.readTimeoutMs 65500 [(0xFF#8, 65535), (0x00#8, 264)] := by
  intro m hm
  simp only [List.mem_cons, List.not_mem_nil, or_false] at hm
  rcases hm with rfl | rfl <;> decide

theorem witness_CapacitySucceeds :
    let misses := [(0xFF#8, 65535), (0x00#8, 264)]
    let payload := List.replicate 16 0xFE#8
    let rx := cmdAnswers std (answered 0x00#8) ++ (tokenAnswers std.startToken misses ++ (payload ++ ([1#8, 2#8] ++ [])))
    let s := fed std rx (65500 :: (misses.map Prod.snd ++ []))
    s.busy = false ∧ s.host = [] ∧ s.cfg.wf = true ∧ AnswersCmd s.cfg (answered 0x00#8) ∧ (answered 0x00#8).r = s.cfg.r1Ready ∧
      Misses s.cfg s.cfg.startToken s.cfg.readTimeoutMs 65500 misses ∧ payload.length = s.cfg.regLen ∧
      [1#8, 2#8].length = s.cfg.trailerLen ∧ s.rx = rx :=
  ⟨rfl, rfl, by decide, answered_ok _ (by decide), rfl, misses_ok, rfl, rfl, rfl⟩

theorem witness_CapacityRejected :
    let s := fed std (cmdAnswers std (answered 0x01#8) ++ []) []
    s.busy = false ∧ s.host = [] ∧ AnswersCmd s.cfg (answered 0x01#8) ∧ (answered 0x01#8).r ≠ s.cfg.r1Ready ∧
      s.rx = cmdAnswers s.cfg (answered 0x01#8) ++ [] := ⟨rfl, rfl, answered_ok _ (by decide), by decide, rfl⟩

theorem witness_ReadRegisterSucceeds :
    let payload := List.replicate 16 0xFE#8
    let rx := cmdAnswers std (answered 0x00#8) ++ (tokenAnswers std.startToken [] ++ (payload ++ ([1#8, 2#8] ++ [])))
    let s := fed std rx (7 :: ([] ++ []))
    s.busy = false ∧ s.host = [] ∧ s.cfg.wf = true ∧ AnswersCmd s.cfg (answered 0x00#8) ∧ (answered 0x00#8).r = s.cfg.r1Ready ∧
      Misses s.cfg s.cfg.startToken s.cfg.readTimeoutMs 7 [] ∧ payload.length = s.cfg.regLen ∧
      [1#8, 2#8].length = s.cfg.trailerLen ∧ s.rx = rx :=
  ⟨rfl, rfl, by decide, answered_ok _ (by decide), rfl, (by intro m hm; cases hm), rfl, rfl, rfl⟩

theorem witness_ReadRegisterRejected :
    let s := fed std (cmdAnswers std (answered 0x7F#8) ++ []) []
    s.busy = false ∧ s.host = [] ∧ AnswersCmd s.cfg (answered 0x7F#8) ∧ (answered 0x7F#8).r ≠ s.cfg.r1Ready ∧
      s.rx = cmdAnswers s.cfg (answered 0x7F#8) ++ [] := ⟨rfl, rfl, answered_ok _ (by decide), by decide, rfl⟩

theorem witness_ReadBlockSucceeds :
    let misses := [(0xFF#8, 65535), (0x00#8, 264)]
    let payload := List.replicate 512 0xA5#8
    let rx := cmdAnswers std (answered 0x00#8) ++ (tokenAnswers std.startToken misses ++ (payload ++ ([1#8, 2#8] ++ [])))
    let s := fed std rx (65500 :: (misses.map Prod.snd ++ []))
    s.busy = false ∧ s.host = [] ∧ AnswersCmd s.cfg (answered 0x00#8) ∧ (answered 0x00#8).r = s.cfg.r1Ready ∧
      Misses s.cfg s.cfg.startToken s.cfg.readTimeoutMs 65500 misses ∧ payload.length = s.cfg.blockLen ∧
      [1#8, 2#8].length = s.cfg.trailerLen ∧ s.rx = rx :=
  ⟨rfl, rfl, answered_ok _ (by decide), rfl, misses_ok, List.length_replicate, rfl, rfl⟩

theorem witness_ReadBlockRejected :
    let s := fed std (cmdAnswers std (answered 0x40#8) ++ []) []
    s.busy = false ∧ s.host = [] ∧ AnswersCmd s.cfg (answered 0x40#8) ∧ (answered 0x40#8).r ≠ s.cfg.r1Ready ∧
      s.rx = cmdAnswers s.cfg (answered 0x40#8) ++ [] := ⟨rfl, rfl, answered_ok _ (by decide), by decide, rfl⟩

/-- The wait that runs out: a miss at each side of a rollover, then one at the first tick past the timeout. -/
abbrev outOfTime (c : Config) (after : List Byte) : State :=
  fed c (cmdAnswers c (answered 0x00#8) ++ ([0xFF#8, 0x00#8] ++ 0xFF#8 :: after)) [65500, 65535, 264, 265]

/-- For both values of `RD_TIMEOUT_ABORT`: an abort with nothing queued after the wait, a block streamed, a register
streamed. -/
theorem witness_StartTokenTimeout :
    let misses := [(0xFF#8, 65535), (0x00#8, 264)]
    let c := { std with rdTimeoutAbort := true }
    ((outOfTime c []).busy = false ∧ (outOfTime c []).host = [] ∧ AnswersCmd c (answered 0x00#8) ∧ (answered 0x00#8).r = c.r1Ready ∧
      Misses c c.startToken c.readTimeoutMs 65500 misses ∧ 0xFF#8 ≠ c.startToken ∧
      expired c c.readTimeoutMs (265 % 2 ^ c.tickW) (65500 % 2 ^ c.tickW) = true ∧
      (outOfTime c []).ticks = 65500 :: (misses.map Prod.snd ++ 265 :: []) ∧
      (outOfTime c []).rx = cmdAnswers c (answered 0x00#8) ++ (misses.map Prod.fst ++ 0xFF#8 :: []) ∧
      c.rdTimeoutAbort = true) ∧
    (∀ len ∈ [std.blockLen, std.regLen],
      let payload := List.replicate len 0xA5#8
      let s := outOfTime std (payload ++ ([1#8, 2#8] ++ []))
      s.busy = false ∧ s.host = [] ∧ AnswersCmd s.cfg (answered 0x00#8) ∧ (answered 0x00#8).r = s.cfg.r1Ready ∧
        Misses s.cfg s.cfg.startToken s.cfg.readTimeoutMs 65500 misses ∧ 0xFF#8 ≠ s.cfg.startToken ∧
        expired s.cfg s.cfg.readTimeoutMs (265 % 2 ^ s.cfg.tickW) (65500 % 2 ^ s.cfg.tickW) = true ∧
        s.ticks = 65500 :: (misses.map Prod.snd ++ 265 :: []) ∧
        s.rx = cmdAnswers s.cfg (answered 0x00#8) ++ (misses.map Prod.fst ++ 0xFF#8 :: (payload ++ ([1#8, 2#8] ++ []))) ∧
        s.cfg.rdTimeoutAbort = false ∧ [1#8, 2#8].length = s.cfg.trailerLen ∧ s.cfg.wf = true ∧ payload.length = len) := by
  refine ⟨⟨rfl, rfl, answered_ok _ (by decide), rfl, misses_ok, by decide, by decide, rfl, rfl, rfl⟩, fun len _ => ?_⟩
  exact ⟨rfl, rfl, answered_ok _ (by decide), rfl, misses_ok, (by decide : (0xFF#8 : Byte) ≠ std.startToken),
    (by decide : expired std std.readTimeoutMs (265 % 2 ^ std.tickW) (65500 % 2 ^ std.tickW) = true), rfl, rfl, rfl, rfl,
    (by decide : std.wf = true), List.length_replicate⟩

/-- A short `BUF` full of values. -/
def fullBuf : Memory := (List.range 16).map fun i => (i, BitVec.ofNat 8 (i + 1))

theorem fullBuf_holds : Holds fullBuf ((List.range 16).map fun i => BitVec.ofNat 8 (i + 1)) := by
  unfold Holds
  decide

theorem busyMisses_ok : Misses tiny tiny.idleByte tiny.writeTimeoutMs 10 [(0x00#8, 610)] := by
  intro m hm
  obtain rfl := List.mem_singleton.1 hm
  decide

theorem witness_WriteBlockSucceeds :
    let data := (List.range 16).map fun i => BitVec.ofNat 8 (i + 1)
    let misses := [(0x00#8, 610)]
    let rx := cmdAnswers tiny (answered 0x00#8) ++ 0xE5#8 :: (tokenAnswers tiny.idleByte misses ++ [])
    let s := { fed tiny rx (10 :: (misses.map Prod.snd ++ [])) with buf := fullBuf }
    s.busy = false ∧ s.host = [] ∧ AnswersCmd s.cfg (answered 0x00#8) ∧ (answered 0x00#8).r = s.cfg.r1Ready ∧ Holds s.buf data ∧
      data.length = s.cfg.blockLen ∧ 0xE5#8 &&& s.cfg.dataResMask = s.cfg.dataResAccepted ∧
      Misses s.cfg s.cfg.idleByte s.cfg.writeTimeoutMs 10 misses ∧ s.rx = rx :=
  ⟨rfl, rfl, answered_tiny _ (by decide), rfl, fullBuf_holds, rfl, by decide, busyMisses_ok, rfl⟩

theorem witness_WriteBlockRejected :
    let s := fed std (cmdAnswers std (answered 0x01#8) ++ []) []
    s.busy = false ∧ s.host = [] ∧ AnswersCmd s.cfg (answered 0x01#8) ∧ (answered 0x01#8).r ≠ s.cfg.r1Ready ∧
      s.rx = cmdAnswers s.cfg (answered 0x01#8) ++ [] := ⟨rfl, rfl, answered_ok _ (by decide), by decide, rfl⟩

theorem witness_WriteBlockBusyTimeout :
    let data := (List.range 16).map fun i => BitVec.ofNat 8 (i + 1)
    let misses := [(0x00#8, 610)]
    let rx := cmdAnswers tiny (answered 0x00#8) ++ 0x05#8 :: (misses.map Prod.fst ++ 0x00#8 :: [])
    let s := { fed tiny rx (10 :: (misses.map Prod.snd ++ 611 :: [])) with buf := fullBuf }
    s.busy = false ∧ s.host = [] ∧ AnswersCmd s.cfg (answered 0x00#8) ∧ (answered 0x00#8).r = s.cfg.r1Ready ∧ Holds s.buf data ∧
      data.length = s.cfg.blockLen ∧ 0x05#8 &&& s.cfg.dataResMask = s.cfg.dataResAccepted ∧
      Misses s.cfg s.cfg.idleByte s.cfg.writeTimeoutMs 10 misses ∧ 0x00#8 ≠ s.cfg.idleByte ∧
      expired s.cfg s.cfg.writeTimeoutMs (611 % 2 ^ s.cfg.tickW) (10 % 2 ^ s.cfg.tickW) = true ∧ s.rx = rx :=
  ⟨rfl, rfl, answered_tiny _ (by decide), rfl, fullBuf_holds, rfl, by decide, busyMisses_ok, by decide, by decide, rfl⟩

/-- A `BUF` whose first four cells are written. -/
theorem witness_WriteBlockOfUnwrittenBuf :
    let data := [1#8, 2#8, 3#8, 4#8]
    let s := { fed tiny (cmdAnswers tiny (answered 0x00#8) ++ []) [] with buf := [(0, 1#8), (1, 2#8), (2, 3#8), (3, 4#8)] }
    s.busy = false ∧ s.host = [] ∧ AnswersCmd s.cfg (answered 0x00#8) ∧ (answered 0x00#8).r = s.cfg.r1Ready ∧
      s.rx = cmdAnswers s.cfg (answered 0x00#8) ++ [] ∧ Holds s.buf data ∧ data.length < s.cfg.blockLen ∧
      readCell s.buf data.length = none :=
  ⟨rfl, rfl, answered_tiny _ (by decide), rfl, rfl, (by unfold Holds; decide), by decide, rfl⟩

end Sys2Proof.Tests
end

section
/-! SUPPORT. The step by what it does: a unit that the decoder reads at its position has the effect of the sequencer's
event there, so a step is the sequencer's event or a move of the host. -/

namespace Sys2Proof.Machine

/-! ## What the decoder reads of a frame -/

/-- A frame is the word of its fields (R62). -/
theorem frame_eq_fields (w : FrameWord) : frameStart w ++ frameIdx w ++ frameArg w ++ frameCks w = w := by
  unfold frameStart frameIdx frameArg frameCks
  rw [BitVec.extractLsb'_append_extractLsb'_eq_extractLsb' (by rfl),
    BitVec.extractLsb'_append_extractLsb'_eq_extractLsb' (by rfl),
    BitVec.extractLsb'_append_extractLsb'_eq_extractLsb' (by rfl)]
  exact BitVec.extractLsb'_eq_self

/-- A frame with the start bits and the checksum its index selects is the frame of its index and argument (R62, R66). -/
theorem frameWord_of_fields {c : Config} {w : FrameWord} (hs : frameStart w = 1#2)
    (hk : frameCks w = checksumByte c (frameIdx w)) : frameWord c (frameIdx w) (frameArg w) = w := by
  unfold frameWord
  rw [← hs, ← hk]
  exact frame_eq_fields w

/-- The named rows come first, and each is the row of its index: every choice of `decodeZeroArg` has the frame of the
index it was chosen for. -/
theorem encode_decodeZeroArg (c : Config) (cmd : CmdIndex) :
    encode c (decodeZeroArg c cmd) = .frame (frameWord c cmd 0#32) := by
  unfold decodeZeroArg
  split_ifs <;> subst_vars <;> rfl

/-- A frame that decodes is the frame of what it decodes to. -/
theorem encode_of_decodeFrame {c : Config} {w : FrameWord} {i : Instr} (h : decodeFrame c w = .ok i) :
    encode c i = .frame w := by
  unfold decodeFrame at h
  split_ifs at h with hs hk ha hal hr hw <;> cases h
  · rw [encode_decodeZeroArg, ← ha, frameWord_of_fields (not_not.1 hs) (not_not.1 hk)]
  · rw [encode, ← hr, frameWord_of_fields (not_not.1 hs) (not_not.1 hk)]
  · rw [encode, ← hw, frameWord_of_fields (not_not.1 hs) (not_not.1 hk)]

/-- Every instruction of a frame transmits its own frame (R72 to R79, R146). -/
theorem exec_of_encode_frame {i : Instr} {w : FrameWord} {s : State} (h : encode s.cfg i = .frame w) :
    exec i s = transmitHere w s := by
  cases i <;> simp only [encode, Wire.frame.injEq, reduceCtorEq] at h <;> subst h <;> rfl

/-! ## What the decoder reads of a byte -/

/-- A byte with bit 7 set is the one R1_NOT_YET stands for (R67). -/
theorem notYet_byte {b : Byte} (h : b.getLsbD 7 = true) : 1#1 ++ b.extractLsb' 0 7 = b := by
  have top : b.extractLsb' 7 1 = 1#1 := by
    ext i hi
    simp [h, show i = 0 by omega]
  rw [← top, BitVec.extractLsb'_append_extractLsb'_eq_extractLsb' (by rfl)]
  exact BitVec.extractLsb'_eq_self

/-- A received byte that decodes at its position has the effect of the receive there (R81). -/
theorem exec_of_decodeByte {s : State} {ctx : ByteCtx} {b : Byte} {i : Instr} (hc : recvCtx s.pos = some ctx)
    (h : decodeByte s.cfg ctx b = .ok i) : exec i s = onByte b s := by
  have token : ∀ w, s.pos = .tokRecv w → exec .startToken s = onByte s.cfg.startToken s := by
    intro w hp
    simp [exec, execStartToken, hp]
  cases hp : s.pos <;> simp only [hp, recvCtx, reduceCtorEq, Option.some.injEq] at hc
  case cmdIdle call =>
    subst hc
    simp only [decodeByte] at h
    split_ifs at h with hb
    cases h
    rw [hb]
    rfl
  case cmdPoll call =>
    subst hc
    simp only [decodeByte] at h
    split_ifs at h with h7 hr hi <;> cases h
    · show onByte _ s = _
      rw [notYet_byte h7]
    · rw [hr]; rfl
    · rw [hi]; rfl
  case tokRecv w =>
    cases w <;> cases hc <;> simp only [decodeByte] at h <;> split_ifs at h with hb <;> cases h <;> rw [hb]
    · exact token _ hp
    · rfl
  case wrAck =>
    subst hc
    simp only [decodeByte] at h
    split_ifs at h
    cases h
    rfl

/-! ## The fetch -/

/-- What a step does with what it has fetched. -/
def perform : Fetched → Result
  | .run i s => exec i s
  | .done r => r

theorem step_eq_perform (s : State) : step s = perform (fetch s) := by
  unfold step
  cases fetch s <;> rfl

/-- Running a decoded unit has the effect of the event it stands for, if every reading of it does. -/
theorem perform_runDecoded {d : Except DecodeError Instr} {s : State} {r : Result}
    (h : ∀ i, d = .ok i → exec i s = r) : perform (runDecoded d s r) = r := by
  cases d with
  | error e => rfl
  | ok i => exact h i rfl

@[simp] theorem takeByte_pos (s : State) : (takeByte s).2.pos = s.pos := by
  unfold takeByte
  split <;> rfl

@[simp] theorem takeByte_cfg (s : State) : (takeByte s).2.cfg = s.cfg := by
  unfold takeByte
  split <;> rfl

/-- An event that waits for no answer. -/
theorem seqStep_of_silent {s : State} (hb : awaitsByte s.pos = false) (ht : awaitsTick s.pos = false) :
    seqStep s = onSilent s := by
  simp [seqStep, hb, ht]

/-- A position that receives a byte. -/
theorem seqStep_of_byte {s : State} (hb : awaitsByte s.pos = true) :
    seqStep s = onByte (takeByte s).1 (takeByte s).2 := by
  simp [seqStep, hb]

/-- A unit that SDCORE sends and that decodes has the effect of the send (R81, R100). -/
theorem exec_of_sentUnit {s : State} {ctx : ByteCtx} {u : Wire} {i : Instr} (hu : sentUnit s = some (ctx, u))
    (h : decode s.cfg ctx u = .ok i) : exec i s = seqStep s := by
  cases hp : s.pos <;> simp only [hp, sentUnit, reduceCtorEq, Option.some.injEq, Prod.mk.injEq] at hu
  case cmdFrame call =>
    obtain ⟨rfl, rfl⟩ := hu
    rw [exec_of_encode_frame (encode_of_decodeFrame h),
      seqStep_of_silent (by simp [hp, awaitsByte]) (by simp [hp, awaitsTick])]
    simp [transmitHere, onSilent, hp]
  case wrToken =>
    obtain ⟨rfl, rfl⟩ := hu
    obtain rfl : .startToken = i := by simpa [decode, decodeByte] using h
    rw [seqStep_of_silent (by simp [hp, awaitsByte]) (by simp [hp, awaitsTick])]
    simp [exec, execStartToken, hp]
  all_goals
    obtain ⟨rfl, rfl⟩ := hu
    obtain rfl : .fillByte = i := by simpa [decode, decodeByte] using h
    rw [seqStep_of_silent (by simp [hp, awaitsByte]) (by simp [hp, awaitsTick])]
    simp [exec, execFillByte, hp, sendsFill]

/-- The sequencer's next event, through the decoder or not, is the pseudocode's (R81, R100 to R154). -/
theorem perform_fetchUnit (s : State) : perform (fetchUnit s) = seqStep s := by
  unfold fetchUnit
  split
  · split
    · rw [seqStep_of_byte ‹_›]
      refine perform_runDecoded fun i hi => exec_of_decodeByte (by simpa using ‹_›) ?_
      rw [takeByte_cfg]
      exact hi
    · rfl
  · split
    · exact perform_runDecoded fun i hi => exec_of_sentUnit ‹_› hi
    · rfl

/-! ## The requests -/

/-- `readRegister` splits the argument into the index and the ignored bits, which together are the argument (R60). -/
theorem argRest_append_argCmd (arg : Word) : arg.extractLsb' 6 26 ++ argCmd arg = arg := by
  unfold argCmd
  rw [BitVec.extractLsb'_append_extractLsb'_eq_extractLsb' (by rfl)]
  exact BitVec.extractLsb'_eq_self

/-- A request's `op` is one of the eight of the table (R60, R61). -/
theorem op_cases {Q : BitVec 3 → Prop} (nop : Q 0#3) (initCard : Q 1#3) (capacity : Q 2#3) (readRegister : Q 3#3)
    (readBlock : Q 4#3) (writeBlock : Q 5#3) (reserved6 : Q 6#3) (reserved7 : Q 7#3) (op : BitVec 3) : Q op := by
  obtain ⟨⟨n, hn⟩⟩ := op
  interval_cases n <;> assumption

/-- A presented request: nothing for `nop`, else the operation that `op` numbers (R60, R61). -/
theorem exec_decodeHostReq (w : ReqWord) (s : State) :
    exec (decodeHostReq w) s = if reqOp w = 0#3 then .next s else request (reqOp w) (reqArg w) s := by
  unfold decodeHostReq
  generalize reqOp w = op
  cases op using op_cases
  case readRegister => exact congrArg (request 3#3 · s) (argRest_append_argCmd (reqArg w))
  all_goals rfl

/-- Everything a request can do: nothing while busy, else begin the operation, and run it where no move of the host
waits (R24). -/
theorem request_cases {Q : Result → Prop} {op : BitVec 3} {arg : Word} {s : State} (hbusy : s.busy = true → Q (.next s))
    (hwait : s.busy = false → s.host ≠ [] → Q (.next (beginOperation (accept op arg s))))
    (hrun : s.busy = false → s.host = [] → Q (runOperation (beginOperation (accept op arg s)))) :
    Q (request op arg s) := by
  cases hb : s.busy with
  | true => simpa [request, hb] using hbusy hb
  | false =>
    by_cases hh : s.host = []
    · simpa [request, hb, moveWaits_false hh] using hrun hb hh
    · rw [request_of_waits hb hh]
      exact hwait hb hh

/-! ## The host's accesses to `BUF` -/

/-- A host write that answers next has written one cell of `BUF`, SDCORE idle (R26). -/
theorem hostWrite_next {i : Nat} {b : Byte} {s t : State} (h : hostWrite i b s = .next t) :
    s.busy = false ∧ i < s.cfg.blockLen ∧ t = { s with buf := writeCell s.buf i b } := by
  unfold hostWrite at h
  split at h
  · cases h
  · split at h
    · cases h
      exact ⟨by simpa using ‹¬ s.busy = true›, ‹_›, rfl⟩
    · cases h

/-- A host read that answers next changes nothing (R26). -/
theorem hostRead_next {i : Nat} {s t : State} (h : hostRead i s = .next t) : s.busy = false ∧ t = s := by
  unfold hostRead at h
  split at h
  · cases h
  · split at h
    · split at h <;> cases h
      exact ⟨by simpa using ‹¬ s.busy = true›, rfl⟩
    · cases h

/-! ## The step -/

/-- A step runs the instruction it has fetched. -/
theorem step_of_fetched {s s' : State} {i : Instr} (h : fetch s = .run i s') : step s = exec i s' := by
  rw [step_eq_perform, h]
  rfl

theorem fetch_of_quiet {s : State} (h : s.host = []) : fetch s = fetchUnit s := by simp only [fetch, h]

/-- With no move pending the step is the sequencer's next event. -/
theorem step_of_quiet {s : State} (h : s.host = []) : step s = seqStep s := by
  rw [step_eq_perform, fetch_of_quiet h, perform_fetchUnit]

/-- A `pass` lets one event pass (R191). -/
theorem step_of_pass {s : State} {rest : List HostMove} (h : s.host = .pass :: rest) :
    step s = seqStep { s with host := rest } := by
  rw [step_eq_perform, ← perform_fetchUnit]
  simp only [fetch, h]

/-- While busy a waiting `await` lets the sequencer's next event pass (log 10). -/
theorem step_of_await {s : State} {rest : List HostMove} (h : s.host = .await :: rest) (hb : s.busy = true) :
    step s = seqStep s := by
  rw [step_eq_perform, ← perform_fetchUnit s]
  simp only [fetch, h, hb, if_true]

theorem step_of_await_idle {s : State} {rest : List HostMove} (h : s.host = .await :: rest) (hb : s.busy = false) :
    step s = .next { s with host := rest } := by
  rw [step_eq_perform]
  simp only [fetch, h, hb, perform, Bool.false_eq_true, if_false]

theorem step_of_request {s : State} {w : ReqWord} {rest : List HostMove} (h : s.host = .request w :: rest) :
    step s = exec (decodeHostReq w) { s with host := rest } :=
  step_of_fetched (by simp only [fetch, h])

theorem step_of_writeBuf {s : State} {i : Nat} {b : Byte} {rest : List HostMove} (h : s.host = .writeBuf i b :: rest) :
    step s = hostWrite i b { s with host := rest } := by
  rw [step_eq_perform]
  simp only [fetch, h, perform]

theorem step_of_readBuf {s : State} {i : Nat} {rest : List HostMove} (h : s.host = .readBuf i :: rest) :
    step s = hostRead i { s with host := rest } := by
  rw [step_eq_perform]
  simp only [fetch, h, perform]

theorem step_of_reset {s : State} {rest : List HostMove} (h : s.host = .reset :: rest) :
    step s = .next (resetMachine { s with host := rest }) := by
  rw [step_eq_perform]
  simp only [fetch, h, perform]

/-- The script an event of the sequencer leaves: a `pass` is taken off, a waiting `await` stays (log 10). -/
def EventScript (s : State) (h : List HostMove) : Prop :=
  s.host = .pass :: h ∨ s.host = h ∧ (h = [] ∨ s.busy = true ∧ ∃ rest, h = .await :: rest)

/-- Everything a step can be: the sequencer's next event, or a move of the host. -/
theorem step_cases {Q : Result → Prop} (s : State)
    (event : ∀ h, EventScript s h → Q (seqStep { s with host := h }))
    (await : ∀ rest, s.host = .await :: rest → s.busy = false → Q (.next { s with host := rest }))
    (nop : ∀ w rest, s.host = .request w :: rest → reqOp w = 0#3 → Q (.next { s with host := rest }))
    (req : ∀ w rest, s.host = .request w :: rest → reqOp w ≠ 0#3 →
      Q (request (reqOp w) (reqArg w) { s with host := rest }))
    (write : ∀ i b rest, s.host = .writeBuf i b :: rest → Q (hostWrite i b { s with host := rest }))
    (read : ∀ i rest, s.host = .readBuf i :: rest → Q (hostRead i { s with host := rest }))
    (reset : ∀ rest, s.host = .reset :: rest → Q (.next (resetMachine { s with host := rest }))) : Q (step s) := by
  cases hh : s.host with
  | nil =>
    rw [step_of_quiet hh]
    exact event s.host (.inr ⟨rfl, .inl hh⟩)
  | cons m rest =>
    cases m with
    | pass =>
      rw [step_of_pass hh]
      exact event rest (.inl hh)
    | await =>
      cases hb : s.busy with
      | true =>
        rw [step_of_await hh hb]
        exact event s.host (.inr ⟨rfl, .inr ⟨hb, rest, hh⟩⟩)
      | false =>
        rw [step_of_await_idle hh hb]
        exact await rest hh hb
    | request w =>
      rw [step_of_request hh, exec_decodeHostReq]
      split
      · exact nop w rest hh ‹_›
      · exact req w rest hh ‹_›
    | writeBuf i b =>
      rw [step_of_writeBuf hh]
      exact write i b rest hh
    | readBuf i =>
      rw [step_of_readBuf hh]
      exact read i rest hh
    | reset =>
      rw [step_of_reset hh]
      exact reset rest hh

end Sys2Proof.Machine
end

section
/-! SUPPORT. The invariant, entered position by position: what an operation keeps wherever it stands, and what each
position asks beside it. -/

namespace Sys2Proof.Machine

/-! ## The part of the invariant that no position changes -/

/-- The clauses of the invariant that do not speak of the position. -/
def Sound (s : State) : Prop :=
  s.cfg.wf = true ∧ (s.buf.wf ∧ ∀ c ∈ s.buf, c.1 < s.cfg.blockLen) ∧ (s.csdr.wf ∧ ∀ c ∈ s.csdr, c.1 < s.cfg.regLen) ∧
    s.polls ≤ s.cfg.cmdRespPolls ∧ s.idx ≤ s.cfg.blockLen ∧ s.t0 < 2 ^ s.cfg.tickW ∧ s.errorCode.toNat ≤ 8

/-- Operation `op` is in flight. -/
def Working (op : BitVec 3) (s : State) : Prop := Sound s ∧ s.busy = true ∧ s.opReg = op

theorem Invariant.sound {s : State} (h : Invariant s) : Sound s :=
  ⟨h.config, h.bufForm, h.csdrForm, h.counters.2.1, h.counters.2.2, h.startTick, h.codes⟩

/-- A position of an operation is one where that operation is in flight. -/
theorem Invariant.working {s : State} {p : Pos} {op : BitVec 3} (h : Invariant s) (hp : s.pos = p)
    (hop : posOp p = some op) : Working op s := by
  refine ⟨h.sound, h.busyIff.2 ?_, h.operation op (hp ▸ hop)⟩
  rintro hi
  simp [← hp, hi, posOp] at hop

/-- What the invariant asks of a well-formed configuration's lengths. -/
theorem wf_lengths {c : Config} (h : c.wf = true) :
    0 < c.cmdRespPolls ∧ 11 ≤ c.regLen ∧ c.regLen ≤ c.blockLen ∧ c.frameLen = 6 := by
  simp only [Config.wf, Bool.and_eq_true, decide_eq_true_eq] at h
  omega

/-- A transfer's payload fits `idx` and its memory. -/
theorem xferLen_bounds {c : Config} (h : c.wf = true) (x : Xfer) :
    xferLen c x ≤ c.blockLen ∧ xferLen c x ≤ destSize c (xferDest x) := by
  obtain ⟨_, _, hl, _⟩ := wf_lengths h
  cases x <;> simp [xferLen, destSize, xferDest, hl]

/-- The answers and the host's script play no part in the invariant. -/
theorem Invariant.withOutside {s : State} (h : Invariant s) (rx : List Byte) (ticks : List Nat) (host : List HostMove)
    (hist : List Event) (free : Nat) :
    Invariant { s with rx := rx, ticks := ticks, host := host, hist := hist, freeCount := free } :=
  ⟨h.config, h.bufForm, h.csdrForm, h.busyIff, h.operation, h.select, h.counters, h.startTick, h.codes, h.scratch,
    h.strategy, h.frame⟩

/-! ## Entering a position -/

/-- An operation goes on at a position of its own that asks nothing of the scratch memory, the strategy or a frame. -/
theorem Working.goto {op : BitVec 3} {p : Pos} {s : State} (h : Working op s) (hop : posOp p = some op)
    (select : csAsPos (goto p s) = true) (counters : countersAsPos (goto p s) = true := by rfl)
    (scratch : csdrAsPos (goto p s) := by trivial) (strategy : strategyAsPos (goto p s) = true := by rfl)
    (frame : frameAsPos (goto p s) := by trivial) : Invariant (goto p s) := by
  obtain ⟨⟨hc, hbuf, hcsdr, hpolls, hidx, ht, he⟩, hbusy, hreg⟩ := h
  refine ⟨hc, hbuf, hcsdr, ?_, ?_, select, ⟨counters, hpolls, hidx⟩, ht, he, scratch, strategy, frame⟩
  · refine iff_of_true hbusy ?_
    rintro rfl
    cases hop
  · intro o ho
    cases hop.symm.trans ho
    exact hreg

/-- An operation completes with the card deselected. -/
theorem Sound.complete {s : State} (h : Sound s) (v : Bool) (hcs : s.cs = false) : Invariant (complete v s) := by
  obtain ⟨hc, hbuf, hcsdr, hpolls, hidx, ht, he⟩ := h
  refine ⟨hc, hbuf, hcsdr, ?_, ?_, ?_, ⟨rfl, hpolls, hidx⟩, ht, he, trivial, rfl, trivial⟩
  · simp
  · rintro _ ⟨⟩
  · simp [csAsPos, hcs]

theorem goto_self {s : State} {p : Pos} (h : s.pos = p) : goto p s = s := by
  subst h
  rfl

/-- The strategy's command at the start of phase 2 (R133). -/
theorem Working.startReady {s : State} (h : Working 1#3 s) : Invariant (startReady s) := by
  unfold Machine.startReady
  split
  · exact h.goto rfl rfl (strategy := by simp [strategyAsPos, *])
  · exact h.goto rfl rfl (strategy := by simp [strategyAsPos, *])

theorem Working.toPrime {s : State} (h : Working 1#3 s) (hcs : s.cs = false) (left : Nat) :
    Invariant (toPrime left s) := by
  unfold Machine.toPrime
  split
  · exact h.goto rfl (by simp [csAsPos, hcs])
  · exact h.goto rfl (by simp [csAsPos, hcs])

/-- Fillers, then the data response: the write stays selected (R152). -/
theorem Working.toFill {s : State} (h : Working 5#3 s) (hcs : s.cs = true) (left : Nat) :
    Invariant (toFill left s) := by
  unfold Machine.toFill
  split
  · exact h.goto rfl hcs
  · exact h.goto rfl hcs

theorem Working.toWrData {s : State} (h : Working 5#3 s) (hcs : s.cs = true) : Invariant (toWrData s) := by
  unfold Machine.toWrData
  split
  · exact h.goto rfl hcs (counters := decide_eq_true ‹_›)
  · exact h.toFill hcs _

/-! ## The parts of a transfer -/

/-- A transfer streams with the card selected, or after a start-token timeout that does not abort (R207). -/
def streams (s : State) : Bool := s.cs || (!s.tokOk && !s.cfg.rdTimeoutAbort)

/-- The cells of `CSDR` up to `n` are written, where the transfer is `capacity`'s. -/
def XferFilled (x : Xfer) (n : Nat) (s : State) : Prop := x = .capacity → csdrFilled n s

theorem Working.toTrailer {x : Xfer} {s : State} (h : Working (posOp.xferOp x) s) (hcs : streams s = true)
    (hf : XferFilled x s.cfg.regLen s) (left : Nat) : Invariant (toTrailer x left s) := by
  unfold Machine.toTrailer
  split
  · refine h.goto rfl hcs (scratch := ?_)
    cases x
    case capacity => exact hf rfl
    all_goals trivial
  · refine h.goto rfl hcs (scratch := ?_)
    cases x
    case capacity => exact hf rfl
    all_goals trivial

theorem Working.toPayload {x : Xfer} {s : State} (h : Working (posOp.xferOp x) s) (hcs : streams s = true)
    (hf : XferFilled x s.idx s) (hi : s.idx ≤ xferLen s.cfg x) : Invariant (toPayload x s) := by
  unfold Machine.toPayload
  split
  · refine h.goto rfl hcs (counters := decide_eq_true ‹_›) (scratch := ?_)
    cases x
    case capacity => exact hf rfl
    all_goals trivial
  · refine h.toTrailer hcs ?_ _
    rintro rfl
    have he : s.idx = s.cfg.regLen := by simp only [xferLen] at *; omega
    exact he ▸ hf rfl

/-- The streaming loop from its start: nothing has been read into `CSDR` yet. -/
theorem Working.startPayload {x : Xfer} {s : State} (h : Working (posOp.xferOp x) s) (hcs : streams s = true) :
    Invariant (startPayload x s) := by
  obtain ⟨⟨hc, hbuf, hcsdr, hpolls, _, ht, he⟩, hbusy, hreg⟩ := h
  have hw : Working (posOp.xferOp x) { s with idx := 0 } :=
    ⟨⟨hc, hbuf, hcsdr, hpolls, Nat.zero_le _, ht, he⟩, hbusy, hreg⟩
  exact hw.toPayload hcs (fun _ i hi => absurd hi (Nat.not_lt_zero i)) (Nat.zero_le _)

theorem Working.xferFailed {x : Xfer} {s : State} (h : Working (posOp.xferOp x) s) (hcs : s.cs = false) :
    Invariant (xferFailed x s) := by
  obtain ⟨hs, _⟩ := h
  cases x
  case capacity => exact Sound.complete (s := { s with capacityOut := 0#32 }) hs false hcs
  all_goals exact hs.complete false hcs

theorem Working.xferSucceeded {x : Xfer} {s : State} (h : Working (posOp.xferOp x) s) (hcs : s.cs = false)
    (hf : XferFilled x s.cfg.regLen s) : Invariant (xferSucceeded x s) := by
  cases x
  case capacity => exact h.goto rfl (by simp [csAsPos, hcs]) (scratch := hf rfl)
  all_goals exact h.1.complete true hcs

/-- `capacity` reads on, or completes with a value of the formula (R140 to R142). -/
theorem Working.toCompute {s : State} (h : Working 2#3 s) (hcs : s.cs = false) (hf : csdrFilled s.cfg.regLen s)
    (got : List Byte) : Invariant (toCompute got s) := by
  unfold Machine.toCompute
  split
  · exact h.goto rfl (by simp [csAsPos, hcs]) (counters := decide_eq_true ‹_›) (scratch := hf)
  · obtain ⟨n, free, _, e⟩ := capacityDone_eq got s.freeCount
    rw [e s rfl]
    exact Sound.complete (s := { s with capacityOut := n, freeCount := free }) h.1 true hcs

/-- The operation of a WAITTOKEN. -/
def waitOp : Wait → BitVec 3
  | .startToken x => posOp.xferOp x
  | .writeBusy => 5#3

theorem posOp_tokStart (w : Wait) : posOp (.tokStart w) = some (waitOp w) := by cases w <;> rfl
theorem posOp_tokRecv (w : Wait) : posOp (.tokRecv w) = some (waitOp w) := by cases w <;> rfl
theorem posOp_tokTick (w : Wait) : posOp (.tokTick w) = some (waitOp w) := by cases w <;> rfl

/-- The end of a WAITTOKEN, whose caller streams, sends the latch or ends the write (R91). -/
theorem Working.waitDone {w : Wait} {s : State} (h : Working (waitOp w) s) (hcs : s.cs = true) (v : Bool) :
    Invariant (waitDone w v s) := by
  cases w with
  | startToken x =>
    cases v with
    | true => exact Working.startPayload (s := setTokOk true s) h (by simp [streams, hcs])
    | false => exact Working.goto (s := setTokOk false s) h rfl (by simp [csAsPos, hcs])
  | writeBusy =>
    cases v with
    | true => exact Working.goto (s := setTokOk true s) h rfl rfl
    | false => exact Working.goto (s := setTokOk false s) h rfl (by simp [csAsPos, hcs])

/-! ## The calls of CARDCMD -/

/-- The operation of a call of CARDCMD. -/
def callOp : Call → BitVec 3
  | .reset | .legacyInit | .appPrefix | .appInit => 1#3
  | .readCsd => 2#3
  | .readReg => 3#3
  | .readBlk => 4#3
  | .writeBlk => 5#3

theorem posOp_cmdSel (call : Call) : posOp (.cmdSel call) = some (callOp call) := by cases call <;> rfl
theorem posOp_cmdIdle (call : Call) : posOp (.cmdIdle call) = some (callOp call) := by cases call <;> rfl
theorem posOp_cmdFrame (call : Call) : posOp (.cmdFrame call) = some (callOp call) := by cases call <;> rfl
theorem posOp_cmdSend (call : Call) (left : List Byte) : posOp (.cmdSend call left) = some (callOp call) := by
  cases call <;> rfl
theorem posOp_cmdPoll (call : Call) : posOp (.cmdPoll call) = some (callOp call) := by cases call <;> rfl

/-- The strategy built in has the call's command (R133). -/
def callBuiltIn (c : Config) : Call → Bool
  | .legacyInit => c.initStrategy == .legacy
  | .appPrefix | .appInit => c.initStrategy == .acmd
  | .reset | .readCsd | .readReg | .readBlk | .writeBlk => true

/-- The call of CARDCMD in flight at a position. -/
def callAt : Pos → Option Call
  | .cmdSel call | .cmdIdle call | .cmdFrame call | .cmdSend call _ | .cmdPoll call => some call
  | _ => none

/-- At a position of CARDCMD the strategy's clause is about the call alone. -/
theorem strategyAsPos_of_callAt {p : Pos} {call : Call} {s : State} (h : callAt p = some call) :
    strategyAsPos (goto p s) = callBuiltIn s.cfg call := by
  cases p <;> cases h <;> cases call <;> rfl

/-- A call's response goes to its caller, which keeps the card selected (R132, R133, R104, R115, R148, R152). -/
theorem Working.resume {call : Call} {s : State} (h : Working (callOp call) s) (hcs : s.cs = true)
    (hb : callBuiltIn s.cfg call = true) : Invariant (resume call s) := by
  have latched : s.cs && true = true := by simp [hcs]
  cases call <;> simp only [Machine.resume]
  case appPrefix => exact h.goto rfl rfl (strategy := hb)
  case reset =>
    split
    · exact h.startReady
    · exact h.goto rfl hcs
  case readBlk | writeBlk =>
    split
    · exact h.goto rfl hcs
    · exact h.goto rfl latched
  all_goals
    split
    · exact h.goto rfl hcs
    · exact h.goto rfl hcs

/-- The sends of a frame, or of its rest (R100, R191). -/
theorem Working.sendFrame {call : Call} {left : List Byte} {s : State} (h : Working (callOp call) s) (hcs : s.cs = true)
    (hb : callBuiltIn s.cfg call = true) (hl : left <:+ frameBytes (callFrame s.cfg s.argReg call)) :
    Invariant (sendFrame call left s) := by
  obtain ⟨⟨hc, hbuf, hcsdr, hpolls, hidx, ht, he⟩, hbusy, hreg⟩ := h
  obtain ⟨sent, rest, rfl, ⟨_, e⟩ | ⟨_, _, _, e⟩⟩ := sendFrame_cases call left s <;> rw [e]
  · obtain ⟨hpoll, _⟩ := wf_lengths hc
    have hw : Working (callOp call) { s with polls := 0, hist := (sent.map Event.send).reverse ++ s.hist } :=
      ⟨⟨hc, hbuf, hcsdr, Nat.zero_le _, hidx, ht, he⟩, hbusy, hreg⟩
    exact hw.goto (posOp_cmdPoll call) hcs (counters := decide_eq_true hpoll)
      (strategy := (strategyAsPos_of_callAt rfl).trans hb)
  · have hw : Working (callOp call) { s with hist := (sent.map Event.send).reverse ++ s.hist } :=
      ⟨⟨hc, hbuf, hcsdr, hpolls, hidx, ht, he⟩, hbusy, hreg⟩
    exact hw.goto (posOp_cmdSend call rest) hcs (strategy := (strategyAsPos_of_callAt rfl).trans hb)
      (frame := (List.suffix_append sent rest).trans hl)

/-! ## The latch -/

/-- No site latches a reserved code (R171). -/
theorem errorNumber_siteError_le (c : Config) (site : LatchSite) : (errorNumber (siteError c site)).toNat ≤ 8 := by
  cases site
  case readyFailed => cases hs : c.initStrategy <;> simp [siteError, hs, errorNumber]
  all_goals simp [siteError, errorNumber]

/-- The operation of a latch site. -/
def siteOp : LatchSite → BitVec 3
  | .resetFailed | .readyFailed => 1#3
  | .readRejected => 4#3
  | .writeRejected | .dataRejected | .busyTimeout => 5#3
  | .tokenTimeout x => posOp.xferOp x

theorem posOp_latch (site : LatchSite) : posOp (.latch site) = some (siteOp site) := by cases site <;> rfl

/-- The latch deselects, then the operation completes, streams what it discards, or ends the write (R161, R163). -/
theorem Working.latchAt {site : LatchSite} {s : State} (h : Working (siteOp site) s)
    (ht : ∀ x, site = .tokenTimeout x → s.tokOk = false) : Invariant (latchAt site s) := by
  obtain ⟨⟨hc, hbuf, hcsdr, hpolls, hidx, htick, _⟩, hbusy, hreg⟩ := h
  have hw : Working (siteOp site) (raiseLatch (siteError s.cfg site) (siteData s site) s) :=
    ⟨⟨hc, hbuf, hcsdr, hpolls, hidx, htick, errorNumber_siteError_le s.cfg site⟩, hbusy, hreg⟩
  cases site
  case tokenTimeout x =>
    simp only [Machine.latchAt, afterLatch]
    split
    · exact hw.xferFailed rfl
    · exact hw.startPayload (by simp_all [streams])
  case busyTimeout => exact hw.goto rfl rfl
  all_goals exact hw.1.complete false rfl

end Sys2Proof.Machine
end

section
/-! PROOF. Every event of the sequencer, every request and every move of the host keeps the invariant. -/

namespace Sys2Proof.Machine

/-! ## One event -/

/-- The strategy's clause at a position of CARDCMD. -/
theorem Invariant.callBuiltIn {s : State} {call : Call} (h : Invariant s) (hc : callAt s.pos = some call) :
    callBuiltIn s.cfg call = true :=
  (strategyAsPos_of_callAt (s := s) hc).symm.trans h.strategy

/-- What `capacity` has filled of `CSDR` while it streams. -/
theorem Invariant.filledToIdx {s : State} {x : Xfer} (h : Invariant s)
    (hp : s.pos = .payload x ∨ ∃ b, s.pos = .store x b) : XferFilled x s.idx s := by
  rintro rfl
  obtain hp | ⟨b, hp⟩ := hp <;> simpa [csdrAsPos, hp] using h.scratch

/-- `CSDR` is full after the payload of `capacity`. -/
theorem Invariant.filledToEnd {s : State} {x : Xfer} (h : Invariant s)
    (hp : (∃ left, s.pos = .trailer x left) ∨ s.pos = .xferDesel x) : XferFilled x s.cfg.regLen s := by
  rintro rfl
  obtain ⟨left, hp⟩ | hp := hp <;> simpa [csdrAsPos, hp] using h.scratch

theorem onByte_invariant {b : Byte} {s t : State} (h : Invariant s) (hb : awaitsByte s.pos = true)
    (he : onByte b s = .next t) : Invariant t := by
  have hcs := h.select
  have hlog : Invariant (log (.recv b) s) := h.withOutside s.rx s.ticks s.host _ s.freeCount
  cases hp : s.pos <;> simp only [hp, awaitsByte, Bool.false_eq_true] at hb <;> simp only [onByte, hp] at he <;>
    cases he <;> simp only [csAsPos, hp] at hcs
  case cmdIdle call =>
    have hw := hlog.working hp (posOp_cmdIdle call)
    split
    · exact hw.goto (posOp_cmdFrame call) hcs
        (strategy := (strategyAsPos_of_callAt rfl).trans (h.callBuiltIn (by rw [hp]; rfl)))
    · exact hlog
  case cmdPoll call =>
    obtain ⟨⟨hc, hbuf, hcsdr, _, hidx, ht, hcode⟩, hbusy, hreg⟩ := h.working hp (posOp_cmdPoll call)
    have hlt : s.polls < s.cfg.cmdRespPolls := by simpa [countersAsPos, hp] using h.counters.1
    have hw : Working (callOp call) (log (.recv b) { s with r1 := b, polls := s.polls + 1 }) :=
      ⟨⟨hc, hbuf, hcsdr, hlt, hidx, ht, hcode⟩, hbusy, hreg⟩
    have hbi := h.callBuiltIn (by rw [hp]; rfl)
    split
    · exact hw.resume hcs hbi
    · have hne : s.polls + 1 ≠ s.cfg.cmdRespPolls := by
        intro e
        simp_all [pollEnds]
      rw [← hp, ← goto_self (s := log (.recv b) { s with r1 := b, polls := s.polls + 1 }) hp]
      exact hw.goto (posOp_cmdPoll call) hcs (counters := decide_eq_true (Nat.lt_of_le_of_ne hlt hne))
        (strategy := (strategyAsPos_of_callAt rfl).trans hbi)
  case tokRecv w =>
    have hw := hlog.working hp (posOp_tokRecv w)
    split
    · exact hw.waitDone hcs true
    · exact hw.goto (posOp_tokTick w) hcs
  case payload x =>
    have hi : s.idx < xferLen s.cfg x := by simpa [countersAsPos, hp] using h.counters.1
    have hf := h.filledToIdx (.inl hp)
    refine (hlog.working hp rfl).goto (p := .store x b) rfl hcs (counters := decide_eq_true hi) (scratch := ?_)
    cases x
    case capacity => exact hf rfl
    all_goals trivial
  case trailer x left =>
    exact Working.toTrailer (hlog.working hp rfl) hcs (h.filledToEnd (.inl ⟨left, hp⟩)) _
  case wrAck =>
    have hw : Working 5#3 (log (.recv b) { s with ack := b }) := h.working hp rfl
    split
    · exact hw.goto rfl hcs
    · exact hw.goto rfl (by simp [csAsPos, hcs])

theorem onTick_invariant {n : Nat} {s : State} (h : Invariant s) (ht : awaitsTick s.pos = true)
    (hn : n < 2 ^ s.cfg.tickW) : Invariant (onTick n s) := by
  have hcs := h.select
  have hlog : Invariant (log (.tick n) s) := h.withOutside s.rx s.ticks s.host _ s.freeCount
  have start : ∀ op, Working op s → Working op (log (.tick n) { s with t0 := n }) := by
    rintro op ⟨⟨hc, hbuf, hcsdr, hpolls, hidx, _, hcode⟩, hbusy, hreg⟩
    exact ⟨⟨hc, hbuf, hcsdr, hpolls, hidx, hn, hcode⟩, hbusy, hreg⟩
  cases hp : s.pos <;> simp only [hp, awaitsTick, Bool.false_eq_true] at ht <;> simp only [onTick, hp] <;>
    simp only [csAsPos, hp] at hcs
  case initTick => exact (start _ (h.working hp rfl)).goto rfl hcs
  case initResetTick =>
    have hw : Working 1#3 (log (.tick n) s) := hlog.working hp rfl
    split
    · exact hw.goto rfl (by simp [csAsPos, hcs])
    · exact hw.goto rfl rfl
  case initReadyTick =>
    have hw : Working 1#3 (log (.tick n) s) := hlog.working hp rfl
    split
    · exact hw.goto rfl (by simp [csAsPos, hcs])
    · exact hw.startReady
  case tokStart w => exact (start _ (h.working hp (posOp_tokStart w))).goto (posOp_tokRecv w) hcs
  case tokTick w =>
    have hw := hlog.working hp (posOp_tokTick w)
    split
    · exact hw.waitDone hcs false
    · exact hw.goto (posOp_tokRecv w) hcs

/-- The state after payload byte `b` is written to its cell (R120). -/
def storedByte (x : Xfer) (b : Byte) (s : State) : State :=
  { log (.memWrite (xferDest x) s.idx b) (setMem (xferDest x) (writeCell (memOf s (xferDest x)) s.idx b) s) with
    idx := s.idx + 1 }

/-- A payload byte written to its cell: `CSDR` is filled one cell further, where it is the destination. -/
theorem Working.store {x : Xfer} {b : Byte} {s : State} (h : Working (posOp.xferOp x) s)
    (hi : s.idx < xferLen s.cfg x) (hf : XferFilled x s.idx s) :
    Working (posOp.xferOp x) (storedByte x b s) ∧ XferFilled x (s.idx + 1) (storedByte x b s) := by
  obtain ⟨⟨hc, hbuf, hcsdr, hpolls, _, ht, hcode⟩, hbusy, hreg⟩ := h
  obtain ⟨hl, _⟩ := xferLen_bounds hc x
  have hidx : s.idx + 1 ≤ s.cfg.blockLen := by omega
  have intoBuf : s.idx < s.cfg.blockLen →
      (writeCell s.buf s.idx b).wf ∧ ∀ c ∈ writeCell s.buf s.idx b, c.1 < s.cfg.blockLen := fun hlt =>
    ⟨wf_writeCell hbuf.1 _ _, writeCell_bound hbuf.2 hlt⟩
  cases x
  case capacity =>
    refine ⟨⟨⟨hc, hbuf, ⟨wf_writeCell hcsdr.1 _ _, writeCell_bound hcsdr.2 hi⟩, hpolls, hidx, ht, hcode⟩,
      hbusy, hreg⟩, fun _ i hlt => ?_⟩
    show (readCell (writeCell s.csdr s.idx b) i).isSome
    rw [readCell_writeCell]
    split
    · rfl
    · exact hf rfl i (by omega)
  all_goals
    exact ⟨⟨⟨hc, intoBuf hidx, hcsdr, hpolls, hidx, ht, hcode⟩, hbusy, hreg⟩, by rintro ⟨⟩⟩

theorem onSilent_invariant {s t : State} (h : Invariant s) (hb : awaitsByte s.pos = false)
    (ht : awaitsTick s.pos = false) (he : onSilent s = .next t) : Invariant t := by
  have hcs := h.select
  cases hp : s.pos <;> simp only [hp, awaitsByte, awaitsTick, reduceCtorEq] at hb ht <;>
    simp only [onSilent, hp] at he <;> simp only [csAsPos, hp, Bool.not_eq_true'] at hcs
  case store x b =>
    obtain ⟨hd, he⟩ := storeByte_next he
    cases he
    have hi : s.idx < xferLen s.cfg x := by simpa [countersAsPos, hp] using h.counters.1
    obtain ⟨hw, hf⟩ := Working.store (b := b) (h.working hp rfl) hi (h.filledToIdx (.inr ⟨b, hp⟩))
    exact hw.toPayload (by simpa [streams, storedByte] using hcs) hf (by simpa [storedByte] using hi)
  case capCompute got =>
    obtain ⟨_, b, _, he⟩ := loadByte_next he
    cases he
    have hf : csdrFilled s.cfg.regLen s := by simpa [csdrAsPos, hp] using h.scratch
    exact Working.toCompute (s := log _ s) (h.working hp rfl) hcs hf _
  case wrData =>
    obtain ⟨hi, b, _, he⟩ := loadByte_next he
    cases he
    exact Working.goto (s := log _ s) (h.working hp rfl) rfl hcs (counters := decide_eq_true hi)
  all_goals cases he
  case idle => exact h
  case initSlow => exact Working.goto (s := tSlowClock s) (h.working hp rfl) rfl (by simp [csAsPos, hcs])
  case initDesel => exact Working.toPrime (s := tDesel s) (h.working hp rfl) rfl _
  case initPrime left => exact Working.toPrime (s := tSend _ s) (h.working hp rfl) hcs _
  case initSel => exact Working.goto (s := tSel s) (h.working hp rfl) rfl rfl
  case initDone | wrDesel => exact Sound.complete (s := tDesel s) h.sound true rfl
  case cmdSel call =>
    have hbi := h.callBuiltIn (by rw [hp]; rfl)
    exact Working.goto (s := tSel s) (h.working hp (posOp_cmdSel call)) (posOp_cmdIdle call) rfl
      (strategy := (strategyAsPos_of_callAt rfl).trans hbi)
  case cmdFrame call =>
    obtain ⟨_, _, _, hfl⟩ := wf_lengths h.config
    have hall : (frameBytes (callFrame s.cfg s.argReg call)).take s.cfg.frameLen =
        frameBytes (callFrame s.cfg s.argReg call) := by
      rw [hfl]
      rfl
    have hbi := h.callBuiltIn (by rw [hp]; rfl)
    refine Working.sendFrame (h.working hp (posOp_cmdFrame call)) hcs hbi ?_
    rw [hall]
  case cmdSend call left =>
    have hbi := h.callBuiltIn (by rw [hp]; rfl)
    exact Working.sendFrame (h.working hp (posOp_cmdSend call left)) hcs hbi (by simpa [frameAsPos, hp] using h.frame)
  case latch site =>
    refine Working.latchAt (h.working hp (posOp_latch site)) ?_
    rintro x rfl
    simpa using (Bool.and_eq_true_iff.1 hcs).2
  case regDesel x => exact Working.xferFailed (s := tDesel s) (h.working hp rfl) rfl
  case xferDesel x =>
    exact Working.xferSucceeded (s := tDesel s) (h.working hp rfl) rfl (h.filledToEnd (.inr hp))
  case wrToken =>
    obtain ⟨⟨hc, hbuf, hcsdr, hpolls, _, ht, hcode⟩, hbusy, hreg⟩ := h.working (op := 5#3) hp rfl
    exact Working.toWrData (s := { tSend _ s with idx := 0 })
      ⟨⟨hc, hbuf, hcsdr, hpolls, Nat.zero_le _, ht, hcode⟩, hbusy, hreg⟩ hcs
  case wrSend b =>
    obtain ⟨⟨hc, hbuf, hcsdr, hpolls, _, ht, hcode⟩, hbusy, hreg⟩ := h.working (op := 5#3) hp rfl
    have hi : s.idx < s.cfg.blockLen := by simpa [countersAsPos, hp] using h.counters.1
    exact Working.toWrData (s := { tSend b s with idx := s.idx + 1 })
      ⟨⟨hc, hbuf, hcsdr, hpolls, hi, ht, hcode⟩, hbusy, hreg⟩ hcs
  case wrFill left => exact Working.toFill (s := tSend _ s) (h.working hp rfl) hcs _

/-- Every event keeps the invariant. -/
theorem seqStep_invariant {s t : State} (h : Invariant s) (he : seqStep s = .next t) : Invariant t := by
  revert he
  refine seqStep_cases (Q := fun r => r = .next t → Invariant t) s ?_ ?_ ?_
  · exact fun hb b r f he => onByte_invariant (h.withOutside r s.ticks s.host s.hist f) hb he
  · rintro _ ht n r f hn ⟨⟩
    exact onTick_invariant (h.withOutside s.rx r s.host s.hist f) ht hn
  · exact fun hb ht he => onSilent_invariant h hb ht he

/-! ## Requests and moves of the host -/

/-- SDCORE is idle and deselected while `busy = 0`. -/
theorem Invariant.idle {s : State} (h : Invariant s) (hb : s.busy = false) : s.pos = .idle ∧ s.cs = false := by
  have hp : s.pos = .idle := by
    by_contra hp
    simp [h.busyIff.2 hp] at hb
  exact ⟨hp, by simpa [csAsPos, hp] using h.select⟩

/-- A request accepted while idle begins its operation under the invariant. -/
theorem beginOperation_invariant {s : State} (h : Invariant s) (hb : s.busy = false) {op : BitVec 3} (arg : Word) :
    Invariant (beginOperation (accept op arg s)) := by
  obtain ⟨_, hcs⟩ := h.idle hb
  obtain ⟨hc, hbuf, hcsdr, hpolls, hidx, ht, hcode⟩ := h.sound
  have accepted : ∀ op, Working op (accept op arg s) := fun op =>
    ⟨⟨hc, hbuf, hcsdr, hpolls, hidx, ht, hcode⟩, rfl, rfl⟩
  have cleared : Working 1#3 (clearError (accept 1#3 arg s)) :=
    ⟨⟨hc, hbuf, hcsdr, hpolls, hidx, ht, Nat.zero_le _⟩, rfl, rfl⟩
  cases op using op_cases
  case initCard => exact cleared.goto rfl (by simp [csAsPos, hcs])
  case nop | reserved6 | reserved7 => exact (accepted _).1.complete false hcs
  all_goals exact (accepted _).goto rfl rfl

/-- A request that answers next leaves the invariant. -/
theorem request_invariant {op : BitVec 3} {arg : Word} {s t : State} (h : Invariant s)
    (he : request op arg s = .next t) : Invariant t := by
  revert he
  refine request_cases (Q := fun r => r = .next t → Invariant t) ?_ ?_ ?_
  · rintro _ ⟨⟩
    exact h
  · rintro hb _ ⟨⟩
    exact beginOperation_invariant h hb arg
  · intro hb _ he
    exact settle_keeps (fun _ _ hu hv => seqStep_invariant hu hv) _ _ _ (beginOperation_invariant h hb arg) he

/-- The state right after reset, with whatever stays outside SDCORE (R28, R190). -/
theorem invariant_resetOf {c : Config} (h : c.wf = true) : Invariant (State.resetOf c) := by
  have wf := wf_reset c
  refine ⟨h, ⟨wf.1, ?_⟩, ⟨wf.2, ?_⟩, ?_, ?_, rfl, ⟨rfl, Nat.zero_le _, Nat.zero_le _⟩, Nat.two_pow_pos _, Nat.zero_le _,
    trivial, rfl, trivial⟩
  · rintro c ⟨⟩
  · rintro c ⟨⟩
  · simp [State.resetOf]
  · rintro op ⟨⟩

/-- A reset at any moment leaves the invariant. -/
theorem resetMachine_invariant {s : State} (h : Invariant s) : Invariant (resetMachine s) := by
  obtain ⟨hc, hbuf, hcsdr, hbusy, hop, hcs, hcnt, ht, hcode, hscr, hstr, hfr⟩ := invariant_resetOf h.config
  exact ⟨hc, hbuf, hcsdr, hbusy, hop, hcs, hcnt, ht, hcode, hscr, hstr, hfr⟩

theorem Invariant.withScript {s : State} (h : Invariant s) (host : List HostMove) : Invariant { s with host := host } :=
  h.withOutside s.rx s.ticks host s.hist s.freeCount

/-! ## The step -/

/-- Settles O11: every event, every request and every move of the host keeps the invariant. -/
theorem stepKeepsInv : Obligations.StepKeepsInv := by
  intro s t h
  refine step_cases (Q := fun r => r = .next t → Invariant t) s ?event ?await ?nop ?req ?write ?read ?reset
  case event => exact fun host _ he => seqStep_invariant (h.withScript host) he
  case await | nop =>
    intros
    rename_i he
    cases he
    exact h.withScript _
  case req => exact fun w rest _ _ he => request_invariant (h.withScript rest) he
  case write =>
    intro i b rest _ he
    obtain ⟨_, hi, rfl⟩ := hostWrite_next he
    obtain ⟨hc, ⟨hwf, hbound⟩, hcsdr, hbusy, hop, hcs, hcnt, ht, hcode, hscr, hstr, hfr⟩ := h
    exact ⟨hc, ⟨wf_writeCell hwf i b, writeCell_bound hbound hi⟩, hcsdr, hbusy, hop, hcs, hcnt, ht, hcode, hscr, hstr,
      hfr⟩
  case read =>
    intro i rest _ he
    obtain ⟨_, rfl⟩ := hostRead_next he
    exact h.withScript rest
  case reset =>
    rintro rest _ ⟨⟩
    exact resetMachine_invariant (h.withScript rest)

end Sys2Proof.Machine
end

section
/-! SUPPORT. What one event of the sequencer can do to the ports, the memories and the results: one event recorded while
a move of the host waits, results written at a completion only, every completion deselected. -/

namespace Sys2Proof.Machine

/-! ## The tests between two events -/

/-- The positions that no event with a `T.desel()` lies behind: idle, and the formula of `capacity` before it. -/
def mayEnd : Pos → Bool
  | .idle | .capCompute _ => true
  | .initTick | .initSlow | .initDesel | .initPrime _ | .initSel | .initResetTick | .initReadyTick | .initDone
  | .cmdSel _ | .cmdIdle _ | .cmdFrame _ | .cmdSend _ _ | .cmdPoll _ | .latch _ | .regDesel _ | .tokStart _
  | .tokRecv _ | .tokTick _
  | .payload _ | .store _ _ | .trailer _ _ | .xferDesel _ | .wrToken | .wrData | .wrSend _ | .wrFill _ | .wrAck
  | .wrDesel => false

/-- The operation goes on with its results unwritten, or it has completed (R14, R17, R130). -/
def ResultsAtEnd (s t : State) : Prop :=
  t.pos ≠ .idle ∧ t.busy = s.busy ∧ t.ok = s.ok ∧ t.capacityOut = s.capacityOut ∨ t.pos = .idle ∧ t.busy = false

/-- `t` is `s` sent on by the tests between two events: nothing happens on the ports or in the memories. -/
structure SentOn (s t : State) : Prop where
  hist : t.hist = s.hist
  cs : t.cs = s.cs
  buf : t.buf = s.buf
  results : ResultsAtEnd s t

/-- `t` is `s` sent on to a position that a deselect lies behind. -/
def Continues (s t : State) : Prop := SentOn s t ∧ mayEnd t.pos = false

theorem sentOn_goto {p : Pos} (hp : p ≠ .idle) (s : State) : SentOn s (goto p s) :=
  ⟨rfl, rfl, rfl, .inl ⟨hp, rfl, rfl, rfl⟩⟩

theorem sentOn_complete (v : Bool) (s : State) : SentOn s (complete v s) := ⟨rfl, rfl, rfl, .inr ⟨rfl, rfl⟩⟩

theorem continues_goto {p : Pos} (hp : mayEnd p = false) (s : State) : Continues s (goto p s) := by
  refine ⟨sentOn_goto ?_ s, hp⟩
  rintro rfl
  cases hp

/-- At a position of its own an event may leave the position as it is. -/
theorem continues_self {s : State} (hp : mayEnd s.pos = false) : Continues s s := continues_goto hp s

theorem continues_ite {p : Prop} [Decidable p] {s a b : State} (ha : Continues s a) (hb : Continues s b) :
    Continues s (if p then a else b) := by
  split
  · exact ha
  · exact hb

theorem startReady_continues (s : State) : Continues s (startReady s) := by
  unfold startReady
  split <;> exact continues_goto rfl s

theorem toPrime_continues (left : Nat) (s : State) : Continues s (toPrime left s) :=
  continues_ite (continues_goto rfl s) (continues_goto rfl s)

theorem toTrailer_continues (x : Xfer) (left : Nat) (s : State) : Continues s (toTrailer x left s) :=
  continues_ite (continues_goto rfl s) (continues_goto rfl s)

theorem toPayload_continues (x : Xfer) (s : State) : Continues s (toPayload x s) :=
  continues_ite (continues_goto rfl s) (toTrailer_continues x _ s)

theorem toFill_continues (left : Nat) (s : State) : Continues s (toFill left s) :=
  continues_ite (continues_goto rfl s) (continues_goto rfl s)

theorem toWrData_continues (s : State) : Continues s (toWrData s) :=
  continues_ite (continues_goto rfl s) (toFill_continues _ s)

/-- A counter set beside the tests is no event. -/
theorem Continues.ofIdx {s t : State} {n : Nat} (h : Continues { s with idx := n } t) : Continues s t := by
  obtain ⟨⟨hhist, hcs, hbuf, hres⟩, hp⟩ := h
  exact ⟨⟨hhist, hcs, hbuf, hres⟩, hp⟩

theorem Continues.ofTokOk {s t : State} {v : Bool} (h : Continues (setTokOk v s) t) : Continues s t := by
  obtain ⟨⟨hhist, hcs, hbuf, hres⟩, hp⟩ := h
  exact ⟨⟨hhist, hcs, hbuf, hres⟩, hp⟩

theorem startPayload_continues (x : Xfer) (s : State) : Continues s (startPayload x s) :=
  (toPayload_continues x { s with idx := 0 }).ofIdx

theorem startWrData_continues (s : State) : Continues s (startWrData s) :=
  (toWrData_continues { s with idx := 0 }).ofIdx

theorem waitDone_continues (w : Wait) (v : Bool) (s : State) : Continues s (waitDone w v s) := by
  cases w <;> cases v
  case startToken.true x => exact (startPayload_continues x (setTokOk true s)).ofTokOk
  all_goals exact (continues_goto rfl (setTokOk _ s)).ofTokOk

theorem resume_continues (call : Call) (s : State) : Continues s (resume call s) := by
  cases call
  case reset => exact continues_ite (startReady_continues s) (continues_goto rfl s)
  case appPrefix => exact continues_goto rfl s
  all_goals exact continues_ite (continues_goto rfl s) (continues_goto rfl s)

theorem xferFailed_sentOn (x : Xfer) (s : State) : SentOn s (xferFailed x s) := by
  cases x <;> exact ⟨rfl, rfl, rfl, .inr ⟨rfl, rfl⟩⟩

theorem xferSucceeded_sentOn (x : Xfer) (s : State) : SentOn s (xferSucceeded x s) := by
  cases x
  case capacity => exact sentOn_goto (by simp) s
  all_goals exact sentOn_complete true s

theorem afterLatch_sentOn (site : LatchSite) (s : State) : SentOn s (afterLatch site s) := by
  cases site
  case tokenTimeout x =>
    simp only [afterLatch]
    split
    · exact xferFailed_sentOn x s
    · exact (startPayload_continues x s).1
  case busyTimeout => exact sentOn_goto (by simp) s
  all_goals exact sentOn_complete false s

theorem toCompute_sentOn (got : List Byte) (s : State) : SentOn s (toCompute got s) := by
  unfold toCompute
  split
  · exact sentOn_goto (by simp) s
  · obtain ⟨n, free, _, e⟩ := capacityDone_eq got s.freeCount
    rw [e s rfl]
    exact ⟨rfl, rfl, rfl, .inr ⟨rfl, rfl⟩⟩

/-! ## One event -/

/-- Nothing is added to the history, or one event. -/
def OneEvent (s t : State) : Prop := t.hist = s.hist ∨ ∃ e, t.hist = e :: s.hist

/-- A memory is as it was, or one cell of it is written. -/
def OneCell (m m' : Memory) : Prop := m' = m ∨ ∃ i b, m' = writeCell m i b

/-- A cell that holds no value after a write held none before. -/
theorem OneCell.unwritten {m m' : Memory} (h : OneCell m m') {i : Nat} (hi : readCell m' i = none) :
    readCell m i = none := by
  obtain rfl | ⟨a, b, rfl⟩ := h
  · exact hi
  · rw [readCell_writeCell] at hi
    split at hi
    · cases hi
    · exact hi

/-- What an event leaves: its record in the history (one event where a move of the host waits), at most one cell of
`BUF` written, results at a completion only, and no end with the card selected. -/
structure Effect (s t : State) : Prop where
  hist : s.host ≠ [] → OneEvent s t
  buf : OneCell s.buf t.buf
  results : ResultsAtEnd s t
  ends : mayEnd t.pos = true → t.cs = false ∨ mayEnd s.pos = true ∧ t.cs = s.cs

/-- The results are as they were, and SDCORE as busy as it was. -/
def SameResults (s u : State) : Prop := u.busy = s.busy ∧ u.ok = s.ok ∧ u.capacityOut = s.capacityOut

/-- An event that records `e` and sends the operation on to where a deselect lies behind. -/
theorem Continues.effect {s u t : State} {e : Event} (h : Continues u t) (hh : u.hist = e :: s.hist)
    (hbuf : OneCell s.buf u.buf := by exact .inl rfl) (hr : SameResults s u := by exact ⟨rfl, rfl, rfl⟩) :
    Effect s t := by
  obtain ⟨⟨hhist, _, hb, hres⟩, hp⟩ := h
  obtain ⟨hbusy, hok, hcap⟩ := hr
  refine ⟨fun _ => .inr ⟨e, hhist.trans hh⟩, hb ▸ hbuf, ?_, fun h => ?_⟩
  · simpa [ResultsAtEnd, hbusy, hok, hcap] using hres
  · rw [hp] at h
    cases h

/-- An event with a `T.desel()`, after which the operation may end. -/
theorem SentOn.effect {s u t : State} (h : SentOn u t) (hh : u.hist = .desel :: s.hist) (hcs : u.cs = false)
    (hbuf : u.buf = s.buf := by rfl) (hr : SameResults s u := by exact ⟨rfl, rfl, rfl⟩) : Effect s t := by
  obtain ⟨hhist, hc, hb, hres⟩ := h
  obtain ⟨hbusy, hok, hcap⟩ := hr
  refine ⟨fun _ => .inr ⟨_, hhist.trans hh⟩, .inl (hb.trans hbuf), ?_, fun _ => .inl (hc.trans hcs)⟩
  simpa [ResultsAtEnd, hbusy, hok, hcap] using hres

theorem onByte_effect {b : Byte} {s t : State} (hb : awaitsByte s.pos = true) (h : onByte b s = .next t) :
    Effect s t := by
  cases hp : s.pos <;> simp only [hp, awaitsByte, Bool.false_eq_true] at hb <;> simp only [onByte, hp] at h <;> cases h
  case cmdIdle call =>
    have here : Continues (log (.recv b) s) (log (.recv b) s) := continues_self (by simp [hp, mayEnd])
    exact (continues_ite (continues_goto rfl _) here).effect rfl
  case cmdPoll call =>
    exact (continues_ite (resume_continues call (log (.recv b) { s with
      pos := .cmdPoll call, r1 := b, polls := s.polls + 1 })) (continues_self rfl)).effect rfl
  case tokRecv w =>
    exact (continues_ite (waitDone_continues w true (log (.recv b) s)) (continues_goto rfl _)).effect rfl
  case payload x => exact (continues_goto rfl (log (.recv b) s)).effect rfl
  case trailer x left => exact (toTrailer_continues x _ (log (.recv b) s)).effect rfl
  case wrAck =>
    exact (continues_ite (continues_goto rfl (log (.recv b) { s with pos := .wrAck, ack := b }))
      (continues_goto rfl _)).effect rfl

theorem onTick_effect {n : Nat} {s : State} (ht : awaitsTick s.pos = true) : Effect s (onTick n s) := by
  cases hp : s.pos <;> simp only [hp, awaitsTick, Bool.false_eq_true] at ht <;> simp only [onTick, hp]
  case initTick | tokStart => exact (continues_goto rfl (log (.tick n) { s with t0 := n })).effect rfl
  case initResetTick =>
    exact (continues_ite (continues_goto rfl (log (.tick n) s)) (continues_goto rfl _)).effect rfl
  case initReadyTick => exact (continues_ite (continues_goto rfl (log (.tick n) s)) (startReady_continues _)).effect rfl
  case tokTick w =>
    exact (continues_ite (waitDone_continues w false (log (.tick n) s)) (continues_goto rfl _)).effect rfl

/-- The sends of a frame: one a step while a move of the host waits (R191). -/
theorem sendFrame_effect (call : Call) (left : List Byte) (s : State) : Effect s (sendFrame call left s) := by
  obtain ⟨sent, left, rfl, ⟨hl, e⟩ | ⟨_, _, h1, e⟩⟩ := sendFrame_cases call left s <;> rw [e]
  · refine ⟨fun hh => ?_, .inl rfl, .inl ⟨by simp, rfl, rfl, rfl⟩, by rintro ⟨⟩⟩
    subst hl
    cases sent with
    | nil => exact .inl rfl
    | cons b sent =>
      have hs := sendFrame_waits (call := call) (b := b) (left := sent) hh
      rw [List.append_nil, hs] at e
      exact .inr ⟨.send b, (congrArg State.hist e).symm⟩
  · obtain ⟨b, rfl⟩ := List.length_eq_one_iff.1 h1
    exact ⟨fun _ => .inr ⟨.send b, rfl⟩, .inl rfl, .inl ⟨by simp, rfl, rfl, rfl⟩, by rintro ⟨⟩⟩

theorem onSilent_effect {s t : State} (hi : s.pos ≠ .idle) (hb : awaitsByte s.pos = false)
    (ht : awaitsTick s.pos = false) (h : onSilent s = .next t) : Effect s t := by
  cases hp : s.pos <;> simp only [hp, awaitsByte, awaitsTick, reduceCtorEq, ne_eq, not_true_eq_false] at hb ht hi <;>
    simp only [onSilent, hp] at h
  case store x b =>
    obtain ⟨_, h⟩ := storeByte_next h
    cases h
    refine (toPayload_continues x _).effect (e := .memWrite (xferDest x) s.idx b) (by simp) ?_
      ⟨by simp, by simp, by simp⟩
    cases x
    case capacity => exact .inl rfl
    all_goals exact .inr ⟨s.idx, b, rfl⟩
  case capCompute got =>
    obtain ⟨_, b, _, h⟩ := loadByte_next h
    cases h
    obtain ⟨hhist, hcs, hbuf, hres⟩ := toCompute_sentOn (got ++ [b]) (log (.memRead .csdr (5 + got.length) b) s)
    exact ⟨fun _ => .inr ⟨_, hhist⟩, .inl hbuf, hres, fun _ => .inr ⟨by rw [hp]; rfl, hcs⟩⟩
  case wrData =>
    obtain ⟨_, b, _, h⟩ := loadByte_next h
    cases h
    exact (continues_goto rfl (log (.memRead .buf s.idx b) s)).effect rfl
  all_goals cases h
  case initSlow => exact (continues_goto rfl (tSlowClock s)).effect rfl
  case initDesel => exact (toPrime_continues _ (tDesel s)).effect rfl
  case initPrime left => exact (toPrime_continues _ (tSend _ s)).effect rfl
  case initSel | cmdSel => exact (continues_goto rfl (tSel s)).effect rfl
  case initDone | wrDesel => exact (sentOn_complete true (tDesel s)).effect rfl rfl
  case cmdFrame call => exact sendFrame_effect call _ s
  case cmdSend call left => exact sendFrame_effect call left s
  case latch site =>
    exact (afterLatch_sentOn site (raiseLatch (siteError s.cfg site) (siteData s site) s)).effect rfl rfl
  case regDesel x => exact (xferFailed_sentOn x (tDesel s)).effect rfl rfl
  case xferDesel x => exact (xferSucceeded_sentOn x (tDesel s)).effect rfl rfl
  case wrToken => exact (startWrData_continues (tSend _ s)).effect rfl
  case wrSend b => exact (toWrData_continues { tSend b s with idx := s.idx + 1 }).effect rfl
  case wrFill left => exact (toFill_continues _ (tSend _ s)).effect rfl

/-- Nothing happens when idle. -/
theorem seqStep_idle {s : State} (h : s.pos = .idle) : seqStep s = .next s := by
  rw [seqStep_of_silent (by simp [h, awaitsByte]) (by simp [h, awaitsTick])]
  simp [onSilent, h]

/-- What every event leaves. -/
theorem seqStep_effect {s t : State} (hi : s.pos ≠ .idle) (h : seqStep s = .next t) : Effect s t := by
  have outside : ∀ r q f, Effect { s with rx := r, ticks := q, freeCount := f } t → Effect s t := by
    rintro r q f ⟨hhist, hbuf, hres, hends⟩
    exact ⟨hhist, hbuf, hres, hends⟩
  revert h
  refine seqStep_cases (Q := fun r => r = .next t → Effect s t) s ?_ ?_ ?_
  · exact fun hb b r f h => outside r s.ticks f (onByte_effect hb h)
  · rintro _ ht n r f _ ⟨⟩
    exact outside s.rx r f (onTick_effect ht)
  · exact fun hb ht h => onSilent_effect hi hb ht h

end Sys2Proof.Machine
end

section
/-! SUPPORT. An operation ends or lacks an answer within `eventBound`: a count of the events that the position and the
queued answers still allow, which every event lowers. -/

namespace Sys2Proof.Machine

/-! ## The budget -/

/-- The events `writeBlock` may take from the read of cell `idx` of `BUF` to its data response, and nine to spare. -/
def wrBudget (c : Config) (idx : Nat) : Nat := 2 * (c.blockLen - idx) + c.trailerLen + 9

/-- The events that a call of CARDCMD and what follows it may take beyond four for each answer. -/
def callBudget (c : Config) : Call → Nat
  | .writeBlk => wrBudget c 0
  | .reset | .legacyInit | .appPrefix | .appInit | .readCsd | .readReg | .readBlk => 9

/-- The events that may follow at a position beyond four for each queued answer. -/
def posBudget (s : State) : Nat :=
  match s.pos with
  | .idle => 0
  | .initTick | .initSlow => s.cfg.primeBytes + 13
  | .initDesel => s.cfg.primeBytes + 12
  | .initPrime left => left - 1 + 12
  | .initSel => 11
  | .initResetTick | .initReadyTick => 9
  | .initDone | .regDesel _ | .wrDesel => 1
  | .cmdSel call | .cmdFrame call | .cmdSend call _ => callBudget s.cfg call + 1
  | .cmdIdle call | .cmdPoll call => callBudget s.cfg call
  | .latch _ | .tokStart _ | .tokRecv _ | .tokTick _ | .store _ _ | .wrAck => 9
  | .payload _ | .trailer _ _ | .xferDesel _ => 8
  | .capCompute got => 6 - got.length + 1
  | .wrToken => wrBudget s.cfg 0 + 1
  | .wrData => wrBudget s.cfg (s.idx + 1) + 2
  | .wrSend _ => wrBudget s.cfg (s.idx + 1) + 1
  | .wrFill left => left - 1 + 10

/-- What the queued answers allow. -/
def answerBudget (s : State) : Nat := 4 * (s.rx.length + s.ticks.length)

/-- The events that the queued answers and the position still allow. -/
def budget (s : State) : Nat := answerBudget s + posBudget s

theorem callBudget_ge (c : Config) (call : Call) : 9 ≤ callBudget c call := by
  cases call <;> simp only [callBudget, wrBudget] <;> omega

/-- Every position of an operation allows an event. -/
theorem posBudget_pos {s : State} (h : s.pos ≠ .idle) : 0 < posBudget s := by
  cases hp : s.pos <;> simp only [posBudget, hp]
  case idle => exact absurd hp h
  case cmdIdle call | cmdPoll call =>
    have := callBudget_ge s.cfg call
    omega
  all_goals omega

/-! ## The budget after the tests between two events -/

theorem budget_startReady (s : State) : budget (startReady s) = answerBudget s + 10 := by
  unfold startReady
  split <;> rfl

theorem budget_toPrime (left : Nat) (s : State) : budget (toPrime left s) = answerBudget s + (left + 11) := by
  unfold toPrime
  split
  · subst_vars
    rfl
  · show answerBudget s + (left - 1 + 12) = _
    omega

theorem budget_toTrailer (x : Xfer) (left : Nat) (s : State) : budget (toTrailer x left s) = answerBudget s + 8 := by
  unfold toTrailer
  split <;> rfl

theorem budget_toPayload (x : Xfer) (s : State) : budget (toPayload x s) = answerBudget s + 8 := by
  unfold toPayload
  split
  · rfl
  · exact budget_toTrailer x _ s

theorem budget_toFill (left : Nat) (s : State) : budget (toFill left s) = answerBudget s + (left + 9) := by
  unfold toFill
  split
  · subst_vars
    rfl
  · show answerBudget s + (left - 1 + 10) = _
    omega

theorem budget_toWrData (s : State) : budget (toWrData s) = answerBudget s + wrBudget s.cfg s.idx := by
  unfold toWrData
  split
  · show answerBudget s + (2 * (s.cfg.blockLen - (s.idx + 1)) + s.cfg.trailerLen + 9 + 2) = _
    unfold wrBudget
    omega
  · rw [budget_toFill]
    unfold wrBudget
    omega

theorem budget_waitDone (w : Wait) (v : Bool) (s : State) : budget (waitDone w v s) ≤ answerBudget s + 9 := by
  cases w <;> cases v
  case startToken.true x => exact (budget_toPayload x { setTokOk true s with idx := 0 }).trans_le (Nat.le_add_right _ 1)
  case writeBusy.true => exact Nat.add_le_add_left (by decide : 1 ≤ 9) _
  all_goals exact Nat.le_refl _

theorem budget_resume (call : Call) (s : State) :
    budget (resume call s) ≤ answerBudget s + (callBudget s.cfg call + 1) := by
  have goto_le : ∀ p n, posBudget (goto p s) ≤ n → budget (goto p s) ≤ answerBudget s + n := fun p n h =>
    Nat.add_le_add_left h _
  cases call <;> simp only [resume]
  case reset =>
    split
    · exact (budget_startReady s).le
    · exact goto_le _ _ (by simp [goto, posBudget, callBudget])
  case appPrefix => exact goto_le _ _ (by simp [goto, posBudget, callBudget])
  case writeBlk =>
    split
    · exact goto_le _ _ (Nat.le_refl _)
    · exact goto_le _ _ (Nat.le_succ_of_le (callBudget_ge s.cfg .writeBlk))
  all_goals
    split
    · exact goto_le _ _ (by simp [goto, posBudget, callBudget])
    · exact goto_le _ _ (by simp [goto, posBudget, callBudget])

theorem budget_xferFailed (x : Xfer) (s : State) : budget (xferFailed x s) = answerBudget s := by cases x <;> rfl

theorem budget_xferSucceeded (x : Xfer) (s : State) : budget (xferSucceeded x s) ≤ answerBudget s + 7 := by
  cases x <;> simp [xferSucceeded, budget, posBudget, answerBudget]

theorem budget_afterLatch (site : LatchSite) (s : State) : budget (afterLatch site s) ≤ answerBudget s + 8 := by
  cases site <;> simp only [afterLatch]
  case tokenTimeout x =>
    split
    · exact (budget_xferFailed x s).trans_le (Nat.le_add_right _ _)
    · exact (budget_toPayload x { s with idx := 0 }).le
  case busyTimeout => exact Nat.add_le_add_left (by decide : 1 ≤ 8) _
  all_goals exact Nat.le_add_right _ _

theorem budget_toCompute (got : List Byte) (s : State) :
    budget (toCompute got s) ≤ answerBudget s + (7 - got.length) := by
  unfold toCompute
  split
  · show answerBudget s + (6 - got.length + 1) ≤ _
    omega
  · obtain ⟨n, free, _, e⟩ := capacityDone_eq got s.freeCount
    rw [e s rfl]
    exact Nat.le_add_right _ _

/-! ## One event -/

/-- A position that has not settled is none of idle, and has its answer queued. -/
theorem not_settled {s : State} (h : settled s = false) :
    s.pos ≠ .idle ∧ (awaitsByte s.pos = true → s.rx ≠ []) ∧ (awaitsTick s.pos = true → s.ticks ≠ []) := by
  simpa [settled, starved] using h

/-- A receive takes four off the budget, and the position afterwards gives back less. -/
theorem onByte_budget {b : Byte} {s t : State} (hb : awaitsByte s.pos = true) (h : onByte b s = .next t) :
    budget t < budget s + 4 := by
  have here : budget s < budget s + 4 := by omega
  have hs : budget s = answerBudget s + posBudget s := rfl
  cases hp : s.pos <;> simp only [hp, awaitsByte, Bool.false_eq_true] at hb <;> simp only [onByte, hp] at h <;>
    cases h <;> simp only [posBudget, hp] at hs
  case cmdIdle call =>
    split
    · show answerBudget s + (callBudget s.cfg call + 1) < _
      omega
    · exact here
  case cmdPoll call =>
    split
    · have := budget_resume call (log (.recv b) { s with pos := .cmdPoll call, r1 := b, polls := s.polls + 1 })
      change _ ≤ answerBudget s + (callBudget s.cfg call + 1) at this
      omega
    · show answerBudget s + callBudget s.cfg call < _
      omega
  case tokRecv w =>
    split
    · have := budget_waitDone w true (log (.recv b) s)
      change _ ≤ answerBudget s + 9 at this
      omega
    · show answerBudget s + 9 < _
      omega
  case payload x =>
    show answerBudget s + 9 < _
    omega
  case trailer x left =>
    rw [budget_toTrailer]
    show answerBudget s + 8 < _
    omega
  case wrAck =>
    split
    · show answerBudget s + 9 < _
      omega
    · show answerBudget s + 9 < _
      omega

/-- A tick read takes four off the budget, and the position afterwards gives back less. -/
theorem onTick_budget {n : Nat} {s : State} (ht : awaitsTick s.pos = true) : budget (onTick n s) < budget s + 4 := by
  have hs : budget s = answerBudget s + posBudget s := rfl
  cases hp : s.pos <;> simp only [hp, awaitsTick, Bool.false_eq_true] at ht <;> simp only [onTick, hp] <;>
    simp only [posBudget, hp] at hs
  case initTick =>
    show answerBudget s + (s.cfg.primeBytes + 13) < _
    omega
  case initResetTick =>
    split
    · show answerBudget s + 9 < _
      omega
    · show answerBudget s + 10 < _
      omega
  case initReadyTick =>
    split
    · show answerBudget s + 9 < _
      omega
    · rw [budget_startReady]
      show answerBudget s + 10 < _
      omega
  case tokStart w =>
    show answerBudget s + 9 < _
    omega
  case tokTick w =>
    split
    · have := budget_waitDone w false (log (.tick n) s)
      change _ ≤ answerBudget s + 9 at this
      omega
    · show answerBudget s + 9 < _
      omega

/-- An event without an answer lowers the budget. -/
theorem onSilent_budget {s t : State} (hh : s.host = []) (hi : s.pos ≠ .idle) (hb : awaitsByte s.pos = false)
    (ht : awaitsTick s.pos = false) (h : onSilent s = .next t) : budget t < budget s := by
  have lower : ∀ {u n}, budget t ≤ answerBudget u + n → answerBudget u = answerBudget s → n < posBudget s →
      budget t < budget s := fun h hu hn => Nat.lt_of_le_of_lt (hu ▸ h) (Nat.add_lt_add_left hn _)
  have frame : ∀ call bs, t = sendFrame call bs s → callBudget s.cfg call < posBudget s → budget t < budget s := by
    rintro call bs rfl hlt
    rw [sendFrame_quiet bs hh]
    exact Nat.add_lt_add_left hlt _
  cases hp : s.pos <;> simp only [hp, awaitsByte, awaitsTick, reduceCtorEq, ne_eq, not_true_eq_false] at hb ht hi <;>
    simp only [onSilent, hp] at h <;> simp only [posBudget, hp] at lower frame
  case store x b =>
    obtain ⟨_, h⟩ := storeByte_next h
    cases h
    exact lower (budget_toPayload x _).le (by cases x <;> rfl) (by decide)
  case capCompute got =>
    obtain ⟨_, b, _, h⟩ := loadByte_next h
    cases h
    exact lower (budget_toCompute _ (log _ s)) rfl (by simp only [List.length_append, List.length_singleton]; omega)
  case wrData =>
    obtain ⟨_, b, _, h⟩ := loadByte_next h
    cases h
    exact lower (u := s) (Nat.le_refl _) rfl (Nat.lt_succ_self _)
  all_goals cases h
  case initSlow => exact lower (u := s) (Nat.le_refl _) rfl (Nat.lt_succ_self _)
  case initDesel => exact lower (budget_toPrime _ (tDesel s)).le rfl (Nat.lt_succ_self _)
  case initPrime left => exact lower (budget_toPrime _ (tSend _ s)).le rfl (Nat.lt_succ_self _)
  case initSel => exact lower (u := s) (n := 10) (Nat.le_refl _) rfl (by decide)
  case initDone | wrDesel => exact lower (u := s) (n := 0) (Nat.le_refl _) rfl (by decide)
  case cmdSel call => exact lower (u := s) (Nat.le_refl _) rfl (Nat.lt_succ_self _)
  case cmdFrame call => exact frame call _ rfl (Nat.lt_succ_self _)
  case cmdSend call left => exact frame call left rfl (Nat.lt_succ_self _)
  case latch site => exact lower (budget_afterLatch site (raiseLatch _ _ s)) rfl (by decide)
  case regDesel x => exact lower (n := 0) (budget_xferFailed x (tDesel s)).le rfl (by decide)
  case xferDesel x => exact lower (budget_xferSucceeded x (tDesel s)) rfl (by decide)
  case wrToken => exact lower (budget_toWrData { tSend _ s with idx := 0 }).le rfl (Nat.lt_succ_self _)
  case wrSend b => exact lower (budget_toWrData { tSend b s with idx := s.idx + 1 }).le rfl (Nat.lt_succ_self _)
  case wrFill left => exact lower (budget_toFill _ (tSend _ s)).le rfl (Nat.lt_succ_self _)

/-- Every event whose answer is queued lowers the budget. -/
theorem seqStep_budget {s t : State} (hh : s.host = []) (hs : settled s = false) (h : seqStep s = .next t) :
    budget t < budget s := by
  obtain ⟨hi, hrx, hticks⟩ := not_settled hs
  cases hb : awaitsByte s.pos with
  | true =>
    obtain ⟨b, rest, he⟩ := List.exists_cons_of_ne_nil (hrx hb)
    rw [seqStep_of_byte hb, takeByte_cons he] at h
    have := onByte_budget (s := { s with rx := rest }) hb h
    have e : budget s = budget { s with rx := rest } + 4 := by
      simp only [budget, answerBudget, he, List.length_cons, posBudget]
      omega
    omega
  | false =>
    cases ht : awaitsTick s.pos with
    | true =>
      obtain ⟨x, rest, he⟩ := List.exists_cons_of_ne_nil (hticks ht)
      simp only [seqStep, hb, ht, takeTick_cons he, Bool.false_eq_true, if_false, if_true] at h
      cases h
      have := onTick_budget (n := x % 2 ^ s.cfg.tickW) (s := { s with ticks := rest }) ht
      have e : budget s = budget { s with ticks := rest } + 4 := by
        simp only [budget, answerBudget, he, List.length_cons, posBudget]
        omega
      omega
    | false =>
      rw [seqStep_of_silent hb ht] at h
      exact onSilent_budget hh hi hb ht h

/-! ## A run to its end -/

/-- With as many events as its budget, an operation comes to where it has settled. -/
theorem settle_settled {n : Nat} {s t : State} (hh : s.host = []) (hn : budget s ≤ n) (h : settle n s = .next t) :
    settled t = true := by
  induction n generalizing s with
  | zero =>
    obtain rfl : s = t := by simpa [settle] using h
    by_contra hs
    obtain ⟨hi, _⟩ := not_settled (by simpa using hs)
    have := posBudget_pos hi
    simp only [budget] at hn
    omega
  | succ n ih =>
    unfold settle at h
    split at h
    · obtain rfl : s = t := by simpa using h
      assumption
    · have hs : settled s = false := by simpa using ‹¬ settled s = true›
      split at h
      · obtain ⟨_, _, _, hhost⟩ := seqStep_same ‹seqStep s = _›
        have := seqStep_budget hh hs ‹seqStep s = _›
        exact ih (hhost.trans hh) (by omega) h
      · cases h
      · cases h

/-- A run that answers next is a sequence of events. -/
theorem runs_of_settle {n : Nat} {s t : State} (h : settle n s = .next t) : ∃ k, Runs k s t := by
  induction n generalizing s with
  | zero =>
    obtain rfl : s = t := by simpa [settle] using h
    exact ⟨0, .refl s⟩
  | succ n ih =>
    unfold settle at h
    split at h
    · obtain rfl : s = t := by simpa using h
      exact ⟨0, .refl s⟩
    · split at h
      · obtain ⟨k, hk⟩ := ih h
        exact ⟨k + 1, .event (by simpa using ‹¬ settled s = true›) ‹_› hk⟩
      · cases h
      · cases h

end Sys2Proof.Machine
end

section
/-! PROOF. The machine's state and its host port (spec/10_state.md): what the fetch runs, what a step leaves alone, what
a reset writes, what the host's accesses do. -/

namespace Sys2Proof.Machine

/-! ## The fetch, by what stands at the port -/

/-- A byte is fetched only where one is received. -/
theorem awaitsByte_of_recvCtx {p : Pos} {ctx : ByteCtx} (h : recvCtx p = some ctx) : awaitsByte p = true := by
  cases p <;> simp only [recvCtx, reduceCtorEq] at h <;> rfl

/-- A received byte that decodes at its position is fetched as the instruction it decodes to. -/
theorem fetchUnit_of_byte {s : State} {ctx : ByteCtx} {b : Byte} {rest : List Byte} {i : Instr}
    (hc : recvCtx s.pos = some ctx) (hrx : s.rx = b :: rest) (hd : decodeByte s.cfg ctx b = .ok i) :
    fetchUnit s = .run i { s with rx := rest } := by
  simp only [fetchUnit, awaitsByte_of_recvCtx hc, if_true, hc, takeByte_cons hrx, decode, hd, runDecoded]

/-- A unit that SDCORE sends and that decodes is fetched as the instruction it decodes to. -/
theorem fetchUnit_of_sent {s : State} {ctx : ByteCtx} {u : Wire} {i : Instr} (hu : sentUnit s = some (ctx, u))
    (hd : decode s.cfg ctx u = .ok i) : fetchUnit s = .run i s := by
  have hb : awaitsByte s.pos = false := by
    cases hp : s.pos <;> simp only [sentUnit, hp, reduceCtorEq] at hu <;> rfl
  simp only [fetchUnit, hb, hu, hd, runDecoded, Bool.false_eq_true, if_false]

/-- Settles O6: each clause is the fetch at its port. -/
theorem stepRunsTheDecodedUnit : Obligations.StepRunsTheDecodedUnit := by
  refine ⟨fun s w rest hh => step_of_request hh, ?_, ?_, ?_, ?_⟩
  · intro s ctx b rest i hh hc hrx hd
    exact step_of_fetched ((fetch_of_quiet hh).trans (fetchUnit_of_byte hc hrx hd))
  · intro s call i hh hp hd
    have hu : sentUnit s = some (.busIdle, .frame (callFrame s.cfg s.argReg call)) := by simp only [sentUnit, hp]
    exact step_of_fetched ((fetch_of_quiet hh).trans (fetchUnit_of_sent hu hd))
  · intro s hh hp
    have hu : sentUnit s = some (.filler, .byte s.cfg.fillByte) := by
      cases hq : s.pos <;> simp only [sentUnit, hq] <;> simp [sendsFill, hq] at hp
    exact step_of_fetched ((fetch_of_quiet hh).trans (fetchUnit_of_sent hu (by simp [decode, decodeByte])))
  · intro s hh hp
    have hu : sentUnit s = some (.tokenOut, .byte s.cfg.startToken) := by simp only [sentUnit, hp]
    exact step_of_fetched ((fetch_of_quiet hh).trans (fetchUnit_of_sent hu (by simp [decode, decodeByte])))

/-! ## A placed word -/

/-- The frame of the call that `callOf` names is the frame the instruction encodes to (R72 to R79, R146). -/
theorem callFrame_callOf {c : Config} {i : Instr} {w : FrameWord} {op : BitVec 3} {call : Call} {arg : Word}
    (hw : encode c i = .frame w) (hi : i.wellFormed c = true) (h : callOf c i = some (op, call, arg)) :
    callFrame c arg call = w := by
  have index : ∀ cmd : CmdIndex, argCmd (cmd.setWidth 32) = cmd := by
    intro cmd
    refine BitVec.eq_of_toNat_eq ?_
    have := cmd.isLt
    simp only [argCmd, BitVec.extractLsb'_toNat, BitVec.toNat_setWidth, Nat.shiftRight_zero]
    omega
  cases i <;> simp only [callOf, Option.some.injEq, reduceCtorEq, Prod.mk.injEq] at h <;>
    simp only [encode, Wire.frame.injEq] at hw <;> obtain ⟨_, rfl, rfl⟩ := h <;> rw [← hw]
  case cmd10 => simp only [callFrame, callCmd, callArg, index]
  case cmdN cmd => simp only [callFrame, callCmd, callArg, index]
  case cmd17 | cmd24 =>
    simp only [Instr.wellFormed, alignedArg, beq_iff_eq] at hi
    simp only [callFrame, callCmd, callArg, blockAddr, hi]
  all_goals rfl

/-- A frame that decodes is emitted by a call. -/
theorem callOf_of_frame {c : Config} {i : Instr} {w : FrameWord} (h : encode c i = .frame w) :
    ∃ op call arg, callOf c i = some (op, call, arg) := by
  cases i <;> simp only [encode, reduceCtorEq] at h <;> exact ⟨_, _, _, rfl⟩

/-- The generic frame is chosen for an index without a row of its own (R146). -/
theorem wellFormed_decodeZeroArg (c : Config) (cmd : CmdIndex) (h : alignedArg c 0#32 = true) :
    (decodeZeroArg c cmd).wellFormed c = true := by
  unfold decodeZeroArg
  split_ifs <;> simp_all [Instr.wellFormed, Config.namedIndices]

/-- A frame that decodes decodes to a well-formed instruction (R76, R77, R146). -/
theorem wellFormed_of_decodeFrame {c : Config} {w : FrameWord} {i : Instr} (h : decodeFrame c w = .ok i) :
    i.wellFormed c = true := by
  unfold decodeFrame at h
  split_ifs at h with hs hk ha hal hr hw <;> cases h
  · exact wellFormed_decodeZeroArg c _ (by simp [alignedArg])
  · simpa [Instr.wellFormed] using hal
  · simpa [Instr.wellFormed] using hal

/-- A byte of the table is read at a position that receives it. -/
theorem recvCtx_posOf_tableCtx (c : Config) (b : Byte) : recvCtx (posOf (tableCtx c b)).2 = some (tableCtx c b) := by
  unfold tableCtx
  split_ifs <;> rfl

/-- A unit that the decoder reads on its own is fetched where it is placed (log 22). -/
theorem fetch_placeUnit {s : State} {u : Wire} {i : Instr} (h : decodeAlone s.cfg u = .ok i) :
    ∃ s', fetch (placeUnit u s) = .run i s' := by
  cases u with
  | hostReq w =>
    obtain rfl : decodeHostReq w = i := by simpa [decodeAlone, decode] using h
    exact ⟨s, rfl⟩
  | frame w =>
    have hd : decodeFrame s.cfg w = .ok i := h
    have he := encode_of_decodeFrame hd
    obtain ⟨op, call, arg, hcall⟩ := callOf_of_frame he
    have hf := callFrame_callOf he (wellFormed_of_decodeFrame hd) hcall
    refine ⟨placeUnit (.frame w) s, ?_⟩
    simp only [placeUnit, hd, hcall]
    exact fetchUnit_of_sent (u := .frame w) (congrArg (fun f => some (ByteCtx.busIdle, Wire.frame f)) hf) hd
  | byte b =>
    exact ⟨_, fetchUnit_of_byte (s := placeUnit (.byte b) s) (recvCtx_posOf_tableCtx s.cfg b) rfl h⟩

/-- Settles O8: the word's unit is placed at the port where the fetch finds it. -/
theorem placedWordIsFetched : Obligations.PlacedWordIsFetched := by
  intro nbits w i h
  suffices ∃ s', fetch (State.reset.withFetchWord nbits w) = .run i s' by
    obtain ⟨s', hs⟩ := this
    exact ⟨s', hs, step_of_fetched hs⟩
  unfold decodeTableWord at h
  unfold State.withFetchWord
  split at h
  · cases h
  · rename_i u hu
    rw [hu]
    refine fetch_placeUnit ?_
    cases hd : decodeAlone Config.atReset u with
    | error e => simp [hd, Except.toOption] at h
    | ok j =>
      obtain rfl : j = i := by simpa [hd, Except.toOption] using h
      exact hd

/-! ## What a step leaves alone -/

theorem request_config {op : BitVec 3} {arg : Word} {s t : State} (h : request op arg s = .next t) : t.cfg = s.cfg := by
  have begun : (beginOperation (accept op arg s)).cfg = s.cfg := by
    unfold beginOperation
    split <;> rfl
  revert h
  refine request_cases (Q := fun r => r = .next t → t.cfg = s.cfg) ?_ ?_ ?_
  · rintro _ ⟨⟩
    rfl
  · rintro _ _ ⟨⟩
    exact begun
  · intro _ _ h
    refine settle_keeps (P := fun u => u.cfg = s.cfg) ?_ _ _ _ begun h
    intro u v hu he
    obtain ⟨hc, _⟩ := seqStep_same he
    exact hc.trans hu

/-- Settles O15: an event leaves the configuration alone, and so does every move of the host. -/
theorem configurationIsConstant : Obligations.ConfigurationIsConstant := by
  intro s t
  refine step_cases (Q := fun r => r = .next t → t.cfg = s.cfg) s ?event ?await ?nop ?req ?write ?read ?reset
  case event =>
    intro host _ h
    obtain ⟨hc, _⟩ := seqStep_same h
    exact hc
  case await | nop =>
    intros
    rename_i h
    cases h
    rfl
  case req => exact fun w rest _ _ h => request_config (s := { s with host := rest }) h
  case write =>
    intro i b rest _ h
    obtain ⟨_, _, rfl⟩ := hostWrite_next h
    rfl
  case read =>
    intro i rest _ h
    obtain ⟨_, rfl⟩ := hostRead_next h
    rfl
  case reset =>
    rintro rest _ ⟨⟩
    rfl

/-- A step while busy is an event of the sequencer, takes a move off the script and nothing else, or is a reset. -/
theorem step_of_busy {s t : State} (hb : s.busy = true) (h : step s = .next t) :
    (∃ host, seqStep { s with host := host } = .next t) ∨ (∃ host, t = { s with host := host }) ∨
      ∃ rest, s.host = .reset :: rest ∧ t = resetMachine { s with host := rest } := by
  revert h
  refine step_cases (Q := fun r => r = .next t → _) s ?event ?await ?nop ?req ?write ?read ?reset
  case event => exact fun host _ h => .inl ⟨host, h⟩
  case await =>
    intro rest _ hi
    simp [hb] at hi
  case nop =>
    rintro w rest _ _ ⟨⟩
    exact .inr (.inl ⟨rest, rfl⟩)
  case req =>
    intro w rest _ _ h
    have ignored : request (reqOp w) (reqArg w) { s with host := rest } = .next { s with host := rest } := by
      simp [request, hb]
    cases ignored.symm.trans h
    exact .inr (.inl ⟨rest, rfl⟩)
  case write =>
    intro i b rest _ h
    obtain ⟨hi, _⟩ := hostWrite_next h
    simp [hb] at hi
  case read =>
    intro i rest _ h
    obtain ⟨hi, _⟩ := hostRead_next h
    simp [hb] at hi
  case reset =>
    rintro rest hh ⟨⟩
    exact .inr (.inr ⟨rest, hh, rfl⟩)

/-- Settles O17: no event writes the operands, and a request while busy is ignored. -/
theorem operandsAreSampledOnce : Obligations.OperandsAreSampledOnce := by
  intro s t hb hr h
  obtain ⟨host, he⟩ | ⟨host, rfl⟩ | ⟨rest, hh, _⟩ := step_of_busy hb h
  · obtain ⟨_, hop, harg, _⟩ := seqStep_same he
    exact ⟨hop, harg⟩
  · exact ⟨rfl, rfl⟩
  · exact absurd hh (hr rest)

/-- Settles O18: results are written with `busy <- 0` only, and a reset ends the operation too. -/
theorem resultsUnchangedWhileBusy : Obligations.ResultsUnchangedWhileBusy := by
  intro s t hb h ht
  obtain ⟨host, he⟩ | ⟨host, rfl⟩ | ⟨rest, _, rfl⟩ := step_of_busy hb h
  · by_cases hi : s.pos = .idle
    · cases (seqStep_idle (s := { s with host := host }) hi).symm.trans he
      exact ⟨rfl, rfl⟩
    · obtain ⟨_, _, hok, hcap⟩ | ⟨_, hend⟩ := (seqStep_effect (s := { s with host := host }) hi he).results
      · exact ⟨hok, hcap⟩
      · simp [hend] at ht
  · exact ⟨rfl, rfl⟩
  · cases ht

/-! ## Reset -/

/-- Settles O10: the state after reset meets every clause, in a well-formed configuration. -/
theorem invAtReset : Obligations.InvAtReset :=
  ⟨fun _ h => invariant_resetOf h, invariant_resetOf (by decide)⟩

/-- Settles O26: the reset writes the table's values, and a step before it records one event at most. -/
theorem resetValues : Obligations.ResetValues := by
  unfold Obligations.ResetValues
  intro quiet
  have quiet_reset : ∀ s : State, quiet (resetMachine s) := fun s =>
    ⟨rfl, rfl, rfl, rfl, rfl, rfl, rfl, fun _ => rfl, fun _ => rfl⟩
  refine ⟨⟨⟨rfl, rfl, rfl, rfl, rfl, rfl, rfl, fun _ => rfl, fun _ => rfl⟩, rfl⟩, ?_, ?_⟩
  · intro s rest hh
    exact ⟨_, step_of_reset hh, quiet_reset _, rfl, rfl, rfl, rfl, rfl⟩
  · intro s s' rest hh h
    rw [step_of_pass hh] at h
    obtain ⟨_, _, _, hhost⟩ := seqStep_same h
    refine ⟨?_, _, step_of_reset hhost, quiet_reset _, rfl, rfl⟩
    by_cases hi : s.pos = .idle
    · cases (seqStep_idle (s := { s with host := .reset :: rest }) hi).symm.trans h
      exact .inl rfl
    · exact (seqStep_effect (s := { s with host := .reset :: rest }) hi h).hist (by simp)

/-! ## Requests that start nothing, and the host's accesses to `BUF` -/

/-- A reserved request completes at once with `ok = 0`, a move of the host waiting or not (R61). -/
theorem request_reserved {op : BitVec 3} (arg : Word) {s : State} (hb : s.busy = false)
    (ho : ∀ s : State, s.opReg = op → beginOperation s = complete false s) :
    request op arg s = .next { s with opReg := op, argReg := arg, ok := false, busy := false, pos := .idle } := by
  have begun : beginOperation (accept op arg s) =
      { s with opReg := op, argReg := arg, ok := false, busy := false, pos := .idle } := ho (accept op arg s) rfl
  rw [← begun]
  refine request_cases (Q := fun r => r = _) ?_ (fun _ _ => rfl) (fun _ _ => settle_of_settled ?_ _)
  · simp [hb]
  · rw [begun]
    rfl

theorem request_busy {op : BitVec 3} {arg : Word} {s : State} (hb : s.busy = true) : request op arg s = .next s := by
  simp [request, hb]

/-- Settles O24: `nop` is no request, the reserved ones complete at once, and none is accepted while busy. -/
theorem requestsThatStartNothing : Obligations.RequestsThatStartNothing := by
  intro s arg cmd top
  refine ⟨rfl, fun hb => ⟨?_, ?_⟩, fun hb i hi => ?_⟩
  · exact request_reserved arg hb fun s hs => by simp [beginOperation, hs]
  · exact request_reserved arg hb fun s hs => by simp [beginOperation, hs]
  · simp only [List.mem_cons, List.not_mem_nil, or_false] at hi
    obtain rfl | rfl | rfl | rfl | rfl | rfl | rfl := hi <;> exact request_busy hb

/-- Settles O25: the two accesses by `busy`, the index, and whether the cell holds a value. -/
theorem hostAccessesBufWhenIdle : Obligations.HostAccessesBufWhenIdle := by
  refine ⟨fun s i b rest hh => ?_, fun s i rest hh => ?_⟩
  · rw [step_of_writeBuf hh]
    refine ⟨fun hb => ?_, fun hb hi => ⟨?_, fun a => readCell_writeCell _ _ _ _⟩, fun hb hi => ?_⟩
    · simp [hostWrite, hb]
    · simp [hostWrite, hb, destSize, hi]
    · simp [hostWrite, hb, destSize, Nat.not_lt.2 hi]
  · rw [step_of_readBuf hh]
    refine ⟨fun hb => ?_, fun hb hi b hc => ?_, fun hb hi hc => ?_, fun hb hi => ?_⟩
    · simp [hostRead, hb]
    · simp [hostRead, hb, destSize, hi, hc]
    · simp [hostRead, hb, destSize, hi, hc]
    · simp [hostRead, hb, destSize, Nat.not_lt.2 hi]

end Sys2Proof.Machine
end

section
/-! PROOF. How an operation ends: deselected, after as many events as its budget, in the same state whether a move of
the host waits or not, and in a fault only for a cell of `BUF` without a value. -/

namespace Sys2Proof.Machine

/-! ## The five operations -/

/-- The five requests are the requests of operations 1 to 5 (R60, R130). -/
theorem exec_operation {arg : Word} {cmd : CmdIndex} {top : BitVec 26} {i : Instr}
    (hi : i ∈ [Instr.initCard arg, .capacity arg, .readRegister cmd top, .readBlock arg, .writeBlock arg]) :
    ∃ op ∈ [1#3, 2#3, 3#3, 4#3, 5#3], ∃ a, ∀ s, exec i s = request op a s := by
  simp only [List.mem_cons, List.not_mem_nil, or_false] at hi
  obtain rfl | rfl | rfl | rfl | rfl := hi
  · exact ⟨1#3, by simp, arg, fun _ => rfl⟩
  · exact ⟨2#3, by simp, arg, fun _ => rfl⟩
  · exact ⟨3#3, by simp, top ++ cmd, fun _ => rfl⟩
  · exact ⟨4#3, by simp, arg, fun _ => rfl⟩
  · exact ⟨5#3, by simp, arg, fun _ => rfl⟩

/-- A begun operation is busy, at a position with events to come, within the bound on them, whatever the script is. -/
theorem beginOperation_facts {op : BitVec 3} (hop : op ∈ [1#3, 2#3, 3#3, 4#3, 5#3]) (arg : Word) (s : State) :
    (beginOperation (accept op arg s)).busy = true ∧ mayEnd (beginOperation (accept op arg s)).pos = false ∧
      budget (beginOperation (accept op arg s)) ≤ eventBound (beginOperation (accept op arg s)) ∧
      ∀ host, beginOperation (accept op arg { s with host := host }) =
        { beginOperation (accept op arg s) with host := host } := by
  have bound : ∀ u : State, posBudget u ≤ u.cfg.primeBytes + 2 * u.cfg.blockLen + u.cfg.trailerLen + 24 →
      budget u ≤ eventBound u := by
    intro u hu
    simp only [budget, answerBudget, eventBound]
    omega
  have command : 10 ≤ s.cfg.primeBytes + 2 * s.cfg.blockLen + s.cfg.trailerLen + 24 := by omega
  simp only [List.mem_cons, List.not_mem_nil, or_false] at hop
  obtain rfl | rfl | rfl | rfl | rfl := hop
  · refine ⟨rfl, rfl, bound _ ?_, fun _ => rfl⟩
    show s.cfg.primeBytes + 13 ≤ s.cfg.primeBytes + 2 * s.cfg.blockLen + s.cfg.trailerLen + 24
    omega
  · exact ⟨rfl, rfl, bound _ command, fun _ => rfl⟩
  · exact ⟨rfl, rfl, bound _ command, fun _ => rfl⟩
  · exact ⟨rfl, rfl, bound _ command, fun _ => rfl⟩
  · refine ⟨rfl, rfl, bound _ ?_, fun _ => rfl⟩
    show wrBudget s.cfg 0 + 1 ≤ s.cfg.primeBytes + 2 * s.cfg.blockLen + s.cfg.trailerLen + 24
    unfold wrBudget
    omega

/-- `busy = 0` exactly when idle, and no end with the card selected: what every event keeps in any configuration. -/
def EndsDeselected (s : State) : Prop := (s.busy = true ↔ s.pos ≠ .idle) ∧ (mayEnd s.pos = true → s.cs = false)

theorem seqStep_endsDeselected {s t : State} (h : EndsDeselected s) (he : seqStep s = .next t) : EndsDeselected t := by
  by_cases hi : s.pos = .idle
  · cases (seqStep_idle hi).symm.trans he
    exact h
  · obtain ⟨_, _, hres, hends⟩ := seqStep_effect hi he
    obtain ⟨hbusy, hcs⟩ := h
    constructor
    · obtain ⟨hp, hb, _⟩ | ⟨hp, hb⟩ := hres
      · exact iff_of_true (hb.trans (hbusy.2 hi)) hp
      · simp [hp, hb]
    · intro hm
      obtain h0 | ⟨hs, h0⟩ := hends hm
      · exact h0
      · exact h0.trans (hcs hs)

theorem beginOperation_endsDeselected {op : BitVec 3} (hop : op ∈ [1#3, 2#3, 3#3, 4#3, 5#3]) (arg : Word) (s : State) :
    EndsDeselected (beginOperation (accept op arg s)) := by
  obtain ⟨hb, hm, _⟩ := beginOperation_facts hop arg s
  refine ⟨iff_of_true hb ?_, by simp [hm]⟩
  intro hi
  simp [hi, mayEnd] at hm

/-- Settles O13: the run of an operation keeps `EndsDeselected`, so it is deselected when it comes to idle. -/
theorem everyExitPathDeselects : Obligations.EveryExitPathDeselects := by
  intro s t arg cmd top i hi hb h ht
  obtain ⟨op, hop, a, hexec⟩ := exec_operation hi
  have begun := beginOperation_endsDeselected hop a s
  have ends : EndsDeselected t := by
    rw [hexec] at h
    revert h
    refine request_cases (Q := fun r => r = .next t → EndsDeselected t) ?_ ?_ ?_
    · simp [hb]
    · rintro _ _ ⟨⟩
      exact begun
    · exact fun _ _ h => settle_keeps (fun _ _ hu hv => seqStep_endsDeselected hu hv) _ _ _ begun h
  obtain ⟨hbusy, hcs⟩ := ends
  have hp : t.pos = .idle := by
    by_contra hp
    simp [hbusy.2 hp] at ht
  exact hcs (by rw [hp]; rfl)

/-! ## One event a step -/

/-- A run whose first step answers next goes on from there. -/
theorem run_succ (M : Host.Core) {s t : M.State} (h : M.step s = .next t) (n : Nat) : M.run (n + 1) s = M.run n t := by
  rw [Host.Core.run, h]

/-- `t` is reached by steps of the machine. -/
def Reaches (s t : State) : Prop := ∃ n, Sys2Proof.core.run n s = .next t

theorem Reaches.step {s u t : State} (h : step s = .next u) (hr : Reaches u t) : Reaches s t := by
  obtain ⟨n, hn⟩ := hr
  exact ⟨n + 1, (run_succ Sys2Proof.core h n).trans hn⟩

/-- The sends of a frame, one a step while the host waits, come to the state of the sends together (R191, log 14). -/
theorem reaches_sendFrame {call : Call} {rest : List HostMove} {t : State} (bs : List Byte) {s : State}
    (hh : s.host = .await :: rest) (hb : s.busy = true)
    (hr : Reaches { s with polls := 0, pos := .cmdPoll call, hist := (bs.map Event.send).reverse ++ s.hist } t) :
    Reaches (sendFrame call bs s) t := by
  induction bs generalizing s with
  | nil => exact hr
  | cons b left ih =>
    rw [sendFrame_waits (by simp [hh])]
    cases left with
    | nil => exact hr
    | cons c left =>
      have next := step_of_await (s := { s with pos := .cmdSend call (c :: left), hist := .send b :: s.hist }) hh hb
      refine .step (next.trans rfl) (ih hh hb ?_)
      simpa using hr

/-- The bytes of a frame that a position has to send. -/
def framePart (s : State) : Option (Call × List Byte) :=
  match s.pos with
  | .cmdFrame call => some (call, (frameBytes (callFrame s.cfg s.argReg call)).take s.cfg.frameLen)
  | .cmdSend call left => some (call, left)
  | _ => none

/-- A position with a frame to send sends it. -/
theorem seqStep_of_framePart {s : State} {call : Call} {bs : List Byte} (h : framePart s = some (call, bs)) :
    seqStep s = .next (sendFrame call bs s) := by
  cases hp : s.pos <;> simp only [framePart, hp, reduceCtorEq, Option.some.injEq, Prod.mk.injEq] at h <;>
    obtain ⟨rfl, rfl⟩ := h <;> rw [seqStep_of_silent (by rw [hp]; rfl) (by rw [hp]; rfl)] <;>
    simp only [onSilent, hp, transmit]

/-- The host's script plays no part in an event at any other position. -/
theorem seqStep_host_of_framePart {s : State} (h : framePart s = none) (host : List HostMove) :
    seqStep { s with host := host } = withHost host (seqStep s) := by
  refine seqStep_host s host (fun call hp => ?_) (fun call left hp => ?_)
  · simp [framePart, hp] at h
  · simp [framePart, hp] at h

/-- A run of events with no move pending is taken one event a step behind an `await` (log 11). -/
theorem reaches_of_runs {k : Nat} {s t : State} (h : Runs k s t) (hh : s.host = []) (he : EndsDeselected s)
    (rest : List HostMove) : Reaches { s with host := .await :: rest } { t with host := .await :: rest } := by
  induction h with
  | refl s => exact ⟨0, rfl⟩
  | @event n s s' t hs hev hrun ih =>
    obtain ⟨hi, _⟩ := not_settled hs
    obtain ⟨_, _, _, hhost⟩ := seqStep_same hev
    have hb : s.busy = true := he.1.2 hi
    have hr := ih (hhost.trans hh) (seqStep_endsDeselected he hev)
    have hstep : step { s with host := .await :: rest } = seqStep { s with host := .await :: rest } :=
      step_of_await rfl hb
    cases hf : framePart s with
    | some part =>
      obtain ⟨call, bs⟩ := part
      have sends := seqStep_of_framePart (s := { s with host := .await :: rest }) hf
      rw [seqStep_of_framePart hf, sendFrame_quiet bs hh] at hev
      cases hev
      exact .step (hstep.trans sends) (reaches_sendFrame bs rfl hb hr)
    | none =>
      have alone := seqStep_host_of_framePart hf (.await :: rest)
      rw [hev] at alone
      exact .step (hstep.trans alone) hr

/-- Settles O14: the budget bounds the run, and a run with no move pending is matched step by step behind an `await`. -/
theorem operationRunsToCompletion : Obligations.OperationRunsToCompletion := by
  intro s arg cmd top hb
  refine ⟨fun i hi hh t h => ?_, fun hh => ?_⟩
  · obtain ⟨op, hop, a, hexec⟩ := exec_operation hi
    obtain ⟨_, _, hbound, hbegin⟩ := beginOperation_facts hop a s
    have host : (beginOperation (accept op a s)).host = [] := by
      rw [← hh]
      exact (congrArg State.host (hbegin s.host)).trans rfl
    have hrun : runOperation (beginOperation (accept op a s)) = .next t := by
      rw [← h, hexec]
      simp [request, hb, moveWaits_false hh]
    refine ⟨settle_settled host hbound hrun, fun rest => ?_⟩
    obtain ⟨k, hk⟩ := runs_of_settle hrun
    obtain ⟨n, hn⟩ := reaches_of_runs hk host (beginOperation_endsDeselected hop a s) rest
    refine ⟨_, n, ?_, hn⟩
    rw [hexec, ← hbegin]
    exact request_of_waits (s := { s with host := .await :: rest }) hb (by simp)
  · exact ⟨request_of_waits hb hh, request_of_waits hb hh, request_of_waits hb hh, request_of_waits hb hh,
      request_of_waits hb hh⟩

/-! ## Faults -/

/-- A receive never faults. -/
theorem onByte_next (b : Byte) (s : State) : ∃ t, onByte b s = .next t := by
  unfold onByte
  split <;> exact ⟨_, rfl⟩

/-- Under the invariant the one fault of an event is `writeBlock`'s read of a cell of `BUF` that holds no value. -/
theorem seqStep_fault {s : State} {f : Fault} (h : Invariant s) (he : seqStep s = .fault f) :
    ∃ i, f = .unwrittenCell .buf i ∧ readCell s.buf i = none := by
  revert he
  refine seqStep_cases (Q := fun r => r = .fault f → _) s ?_ ?_ ?_
  · intro _ b r k he
    obtain ⟨t, ht⟩ := onByte_next b { s with rx := r, freeCount := k }
    simp [ht] at he
  · rintro _ _ n r k _ ⟨⟩
  · intro hb ht he
    obtain ⟨_, hreg, _, _⟩ := wf_lengths h.config
    cases hp : s.pos <;> simp only [hp, awaitsByte, awaitsTick, reduceCtorEq] at hb ht <;>
      simp only [onSilent, hp, reduceCtorEq] at he
    case store x b =>
      have hi : s.idx < xferLen s.cfg x := by simpa [countersAsPos, hp] using h.counters.1
      obtain ⟨_, hsize⟩ := xferLen_bounds h.config x
      simp [storeByte, Nat.lt_of_lt_of_le hi hsize] at he
    case capCompute got =>
      have hg : got.length < 6 := by simpa [countersAsPos, hp] using h.counters.1
      have hfill : csdrFilled s.cfg.regLen s := by simpa [csdrAsPos, hp] using h.scratch
      obtain ⟨b, hc⟩ := Option.isSome_iff_exists.1 (hfill (5 + got.length) (by omega))
      have hsize : 5 + got.length < s.cfg.regLen := by omega
      simp [loadByte, destSize, hsize, hc] at he
    case wrData =>
      have hi : s.idx < s.cfg.blockLen := by simpa [countersAsPos, hp] using h.counters.1
      cases hc : readCell s.buf s.idx with
      | some b => simp [loadByte, destSize, hi, hc] at he
      | none =>
        simp only [loadByte, destSize, hi, memOf_buf, hc, if_true] at he
        cases he
        exact ⟨s.idx, rfl, hc⟩

/-- A run of events that faults comes to a state whose next event faults, with what every event keeps. -/
theorem settle_fault {P : State → Prop} (hstep : ∀ s s', P s → seqStep s = .next s' → P s') {n : Nat} {s : State}
    {f : Fault} (hs : P s) (h : settle n s = .fault f) : ∃ u, P u ∧ seqStep u = .fault f := by
  induction n generalizing s with
  | zero => simp [settle] at h
  | succ n ih =>
    unfold settle at h
    split at h
    · cases h
    · split at h
      · exact ih (hstep _ _ hs ‹_›) h
      · cases h
        exact ⟨s, hs, ‹_›⟩
      · cases h

/-- No event takes the value of a cell of `BUF` away. -/
theorem seqStep_unwritten {s t : State} (h : seqStep s = .next t) {i : Nat} (hi : readCell t.buf i = none) :
    readCell s.buf i = none := by
  by_cases hp : s.pos = .idle
  · cases (seqStep_idle hp).symm.trans h
    exact hi
  · exact (seqStep_effect hp h).buf.unwritten hi

/-- A request that faults meets a cell of `BUF` without a value. -/
theorem request_fault {op : BitVec 3} {arg : Word} {s : State} {f : Fault} (h : Invariant s)
    (he : request op arg s = .fault f) : ∃ i, f = .unwrittenCell .buf i ∧ readCell s.buf i = none := by
  revert he
  refine request_cases (Q := fun r => r = .fault f → _) ?_ ?_ ?_
  · rintro _ ⟨⟩
  · rintro _ _ ⟨⟩
  · intro hb _ he
    have hbuf : (beginOperation (accept op arg s)).buf = s.buf := by
      unfold beginOperation
      split <;> rfl
    obtain ⟨u, ⟨hu, hkeep⟩, hf⟩ := settle_fault
      (P := fun u => Invariant u ∧ ∀ i, readCell u.buf i = none → readCell s.buf i = none)
      (fun u v hu hv => ⟨seqStep_invariant hu.1 hv, fun i hi => hu.2 i (seqStep_unwritten hv hi)⟩)
      ⟨beginOperation_invariant h hb arg, fun i hi => hbuf ▸ hi⟩ he
    obtain ⟨i, rfl, hi⟩ := seqStep_fault hu hf
    exact ⟨i, rfl, hkeep i hi⟩

/-- Settles O12: events and requests fault at an unwritten cell of `BUF` only, the host's accesses also while busy and
outside `BUF`. -/
theorem onlyTheNamedFaults : Obligations.OnlyTheNamedFaults := by
  intro s f h
  refine step_cases (Q := fun r => r = .fault f → _) s ?event ?await ?nop ?req ?write ?read ?reset
  case event => exact fun host _ he => .inl (seqStep_fault (s := { s with host := host }) (h.withScript host) he)
  case await | nop | reset =>
    intros
    rename_i he
    cases he
  case req => exact fun w rest _ _ he => .inl (request_fault (s := { s with host := rest }) (h.withScript rest) he)
  case write =>
    intro i b rest _ he
    unfold hostWrite at he
    split at he
    · cases he
      exact .inr (.inl ⟨i, rfl, ‹_›⟩)
    · split at he
      · cases he
      · cases he
        exact .inr (.inr ⟨i, rfl, Nat.not_lt.1 ‹_›⟩)
  case read =>
    intro i rest _ he
    unfold hostRead at he
    split at he
    · cases he
      exact .inr (.inl ⟨i, rfl, ‹_›⟩)
    · split at he
      · split at he <;> cases he
        exact .inl ⟨i, rfl, ‹_›⟩
      · cases he
        exact .inr (.inr ⟨i, rfl, Nat.not_lt.1 ‹_›⟩)

/-- The state before the read of the cell after the first ones of `BUF`, however it came there. -/
def AtCell (n : Nat) (s t : State) : Prop := t.pos = .wrData ∧ t.idx = n ∧ t.buf = s.buf ∧ t.cfg = s.cfg

/-- The start token and the first cells of `BUF`, each read and sent (R152, R153). -/
theorem runs_wrToken {s : State} {data : List Byte} (hp : s.pos = .wrToken) (hd : Holds s.buf data)
    (hlen : data.length < s.cfg.blockLen) : ∃ t, Runs (2 * data.length + 1) s t ∧ AtCell data.length s t := by
  have cells := runs_toWrData_part (s := { tSend s.cfg.startToken s with idx := 0 }) (data := data)
    (by simpa using hlen) (fun i hi => by simpa using hd i hi) (.refl _)
  rw [Nat.zero_add] at cells
  exact ⟨_, .silent (by simp [hp]) (by rw [hp]; rfl) (by rw [hp]; rfl) (by simp only [onSilent, hp]; rfl) cells,
    rfl, Nat.zero_add _, rfl, rfl⟩

/-- `writeBlock` under the ready response comes to the read of the cell after the first ones of `BUF` (R152). -/
theorem runs_writeBlock {s : State} {e : Exchange} {data rest : List Byte} (hp : s.pos = .cmdSel .writeBlk)
    (hh : s.host = []) (ha : AnswersCmd s.cfg e) (hr : e.r = s.cfg.r1Ready) (hrx : s.rx = cmdAnswers s.cfg e ++ rest)
    (hd : Holds s.buf data) (hlen : data.length < s.cfg.blockLen) :
    ∃ t, Runs (2 * data.length + 1 + e.wait.length + e.polls.length + 4) s t ∧ AtCell data.length s t := by
  obtain ⟨t, run, ht⟩ := runs_wrToken (data := data) (s := { s with
    cs := true, pos := .wrToken, r1 := e.r, polls := e.polls.length + 1, rx := rest,
    hist := (cmdEvents s.cfg (callFrame s.cfg s.argReg .writeBlk) e).reverse ++ s.hist }) rfl hd hlen
  refine ⟨t, runs_cmd hp hh ha hrx ?_, ht⟩
  simpa only [resume, hr, if_true, goto] using run

/-- Settles O60: the command's run, the token and the written cells, then the read of the first cell without a value. -/
theorem writeBlockOfUnwrittenBuf : Obligations.WriteBlockOfUnwrittenBuf := by
  intro s n e data rest hb hh ha hr hrx hd hlen hnone
  obtain ⟨t, run, hp, hidx, hbuf, hcfg⟩ :=
    runs_writeBlock (s := beginOperation (accept 5#3 n s)) rfl hh ha hr hrx hd hlen
  have running : settled t = false := by simp [settled, starved, hp, awaitsByte, awaitsTick]
  have stops : seqStep t = .fault (.unwrittenCell .buf data.length) := by
    have hsize : data.length < t.cfg.blockLen := hcfg ▸ hlen
    have hcell : readCell t.buf data.length = none := hbuf ▸ hnone
    rw [seqStep_of_silent (by rw [hp]; rfl) (by rw [hp]; rfl)]
    simp [onSilent, hp, hidx, loadByte, destSize, hsize, hcell]
  have bound : 2 * data.length + 1 + e.wait.length + e.polls.length + 4 <
      eventBound (beginOperation (accept 5#3 n s)) := by
    show _ < 4 * (s.rx.length + s.ticks.length) + s.cfg.primeBytes + 2 * s.cfg.blockLen + s.cfg.trailerLen + 24
    simp only [hrx, cmdAnswers, List.length_append, List.length_cons]
    omega
  show request 5#3 n s = _
  simp only [request, hb, moveWaits_false hh, Bool.false_eq_true, if_false]
  exact run.settle_fault running stops bound

end Sys2Proof.Machine
end

section
/-! SUPPORT. The byte memories cell by cell: the cells of a canonical memory beside its lowest one, and two canonical
memories with a common cell. The bytes of a frame from its fields. -/

namespace Sys2Proof.Machine

/-! ## Canonical memories -/

/-- The lowest cell of a canonical memory is listed once: the cells after it do not hold its address. -/
theorem readCell_tail_head {c : Host.Cell} {m : Memory} (h : Memory.wf (c :: m)) : readCell m c.1 = none :=
  readCell_eq_none_of_lt (List.pairwise_cons.1 h).1

/-- A canonical memory holds no value below its lowest cell. -/
theorem readCell_cons_below {c : Host.Cell} {m : Memory} {a : Nat} (h : Memory.wf (c :: m)) (ha : a < c.1) :
    readCell (c :: m) a = none := by
  rw [readCell_cons, if_neg (by omega)]
  exact readCell_eq_none_of_lt fun d hd => ha.trans ((List.pairwise_cons.1 h).1 d hd)

theorem readCell_cons_head (c : Host.Cell) (m : Memory) : readCell (c :: m) c.1 = some c.2 := by
  rw [readCell_cons, if_pos rfl]

/-- Of two canonical memories that read alike, neither begins below the other. -/
theorem head_le_of_readCell_eq {c d : Host.Cell} {m m' : Memory} (h' : Memory.wf (d :: m'))
    (h : ∀ i, readCell (c :: m) i = readCell (d :: m') i) : d.1 ≤ c.1 := by
  by_contra hlt
  have := h c.1
  rw [readCell_cons_head, readCell_cons_below h' (by omega)] at this
  cases this

/-- Two canonical memories that read alike begin with the same cell. -/
theorem head_eq_of_readCell_eq {c d : Host.Cell} {m m' : Memory} (hm : Memory.wf (c :: m)) (hm' : Memory.wf (d :: m'))
    (h : ∀ i, readCell (c :: m) i = readCell (d :: m') i) : c = d := by
  have ha : c.1 = d.1 :=
    Nat.le_antisymm (head_le_of_readCell_eq hm fun i => (h i).symm) (head_le_of_readCell_eq hm' h)
  have hb := h c.1
  rw [readCell_cons_head, ha, readCell_cons_head] at hb
  exact Prod.ext ha (Option.some.inj hb)

/-- Canonical memories that read alike and begin with the same cell read alike after it. -/
theorem readCell_tail_eq {c : Host.Cell} {m m' : Memory} (hm : Memory.wf (c :: m)) (hm' : Memory.wf (c :: m'))
    (h : ∀ i, readCell (c :: m) i = readCell (c :: m') i) (i : Nat) : readCell m i = readCell m' i := by
  by_cases hi : c.1 = i
  · rw [← hi, readCell_tail_head hm, readCell_tail_head hm']
  · simpa only [readCell_cons, if_neg hi] using h i

/-! ## Frames -/

/-- The command byte has the top two bits `01` and the index below them (R64). -/
theorem start_append_idx (cmd : CmdIndex) : 1#2 ++ cmd = 0x40#8 ||| (cmd.setWidth 8 &&& 0x3F#8) := by
  revert cmd
  decide

/-- Byte 0 of a frame holds the start bits and the index (R62). -/
theorem frameWord_commandByte (c : Config) (cmd : CmdIndex) (arg : Word) :
    (frameWord c cmd arg).extractLsb' 40 8 = 1#2 ++ cmd := by
  rw [frameWord, BitVec.extractLsb'_append_eq_of_le (by decide), BitVec.extractLsb'_append_eq_of_le (by decide)]
  exact BitVec.extractLsb'_eq_self

/-- A byte of the argument stands eight bits higher in the frame, above the checksum (R62). -/
theorem frameWord_argByte (c : Config) (cmd : CmdIndex) (arg : Word) {k : Nat} (hk : k + 8 ≤ 32) :
    (frameWord c cmd arg).extractLsb' (k + 8) 8 = arg.extractLsb' k 8 := by
  rw [frameWord, BitVec.extractLsb'_append_eq_of_le (by omega), Nat.add_sub_cancel,
    BitVec.extractLsb'_append_eq_of_add_le hk]

theorem frameWord_checksum (c : Config) (cmd : CmdIndex) (arg : Word) :
    (frameWord c cmd arg).extractLsb' 0 8 = checksumByte c cmd :=
  BitVec.extractLsb'_append_eq_right

/-- The bytes of the frame of a command and its argument (R44, R62, R64). -/
theorem frameBytes_frameWord (c : Config) (cmd : CmdIndex) (arg : Word) :
    frameBytes (frameWord c cmd arg) =
      [0x40#8 ||| (cmd.setWidth 8 &&& 0x3F#8), arg.extractLsb' 24 8, arg.extractLsb' 16 8, arg.extractLsb' 8 8,
        arg.extractLsb' 0 8, checksumByte c cmd] := by
  have argByte := fun k (hk : k + 8 ≤ 32) => frameWord_argByte c cmd arg hk
  rw [frameBytes, frameWord_commandByte, start_append_idx, argByte 24 (by decide), argByte 16 (by decide),
    argByte 8 (by decide), argByte 0 (by decide), frameWord_checksum]

end Sys2Proof.Machine
end

section
/-! SUPPORT. What the events of one operation leave alone: the memories, `capacityOut` and the clock request, by the
operation that is in flight, in any configuration; and that an event only adds to the history. -/

namespace Sys2Proof.Machine

/-! ## The operation in flight -/

/-- The transfer whose payload a position receives or stores. -/
def payloadAt : Pos → Option Xfer
  | .payload x | .store x _ => some x
  | _ => none

/-- The position is one of operation `op`, and a payload's index is one of its bytes: what the frame of an operation
needs of the invariant, and what every event keeps in any configuration. -/
def Located (op : BitVec 3) (s : State) : Prop :=
  (∀ o, posOp s.pos = some o → o = op) ∧ ∀ x, payloadAt s.pos = some x → s.idx < xferLen s.cfg x

theorem Located.op_eq {op o : BitVec 3} {p : Pos} {s : State} (h : Located op s) (hp : s.pos = p)
    (ho : posOp p = some o) : o = op := by
  obtain ⟨hop, _⟩ := h
  exact hop o (hp ▸ ho)

theorem Located.idx_lt {op : BitVec 3} {p : Pos} {x : Xfer} {s : State} (h : Located op s) (hp : s.pos = p)
    (hx : payloadAt p = some x) : s.idx < xferLen s.cfg x := by
  obtain ⟨_, hlt⟩ := h
  exact hlt x (hp ▸ hx)

theorem Invariant.located {s : State} (h : Invariant s) : Located s.opReg s := by
  refine ⟨fun o ho => (h.operation o ho).symm, fun x hx => ?_⟩
  obtain ⟨hc, _⟩ := h.counters
  cases hp : s.pos <;> simp only [hp, payloadAt, reduceCtorEq, Option.some.injEq] at hx <;> subst hx <;>
    simpa [countersAsPos, hp] using hc

/-- What operation `op` leaves alone from `s` to `t` (R17, R43, R206): `BUF` is written by `readRegister` and
`readBlock` only, each within its payload, `CSDR` and `capacityOut` by `capacity` only, the clock request by operation 1
only. -/
def OperationFrame (op : BitVec 3) (s t : State) : Prop :=
  (op ≠ 3#3 → op ≠ 4#3 → t.buf = s.buf) ∧
  (op = 3#3 → ∀ a, s.cfg.regLen ≤ a → readCell t.buf a = readCell s.buf a) ∧
  (op = 4#3 → ∀ a, s.cfg.blockLen ≤ a → readCell t.buf a = readCell s.buf a) ∧
  (op ≠ 2#3 → t.csdr = s.csdr ∧ t.capacityOut = s.capacityOut) ∧
  (op ≠ 1#3 → t.clockSlow = s.clockSlow)

theorem OperationFrame.refl (op : BitVec 3) (s : State) : OperationFrame op s s :=
  ⟨fun _ _ => rfl, fun _ _ _ => rfl, fun _ _ _ => rfl, fun _ => ⟨rfl, rfl⟩, fun _ => rfl⟩

theorem OperationFrame.trans {op : BitVec 3} {s t u : State} (h : OperationFrame op s t) (hc : t.cfg = s.cfg)
    (h' : OperationFrame op t u) : OperationFrame op s u := by
  obtain ⟨hbuf, hreg, hblk, hcap, hclk⟩ := h
  obtain ⟨hbuf', hreg', hblk', hcap', hclk'⟩ := h'
  rw [hc] at hreg' hblk'
  exact ⟨fun h3 h4 => (hbuf' h3 h4).trans (hbuf h3 h4), fun ho a ha => (hreg' ho a ha).trans (hreg ho a ha),
    fun ho a ha => (hblk' ho a ha).trans (hblk ho a ha),
    fun ho => ⟨(hcap' ho).1.trans (hcap ho).1, (hcap' ho).2.trans (hcap ho).2⟩,
    fun ho => (hclk' ho).trans (hclk ho)⟩

/-- Operation `op` goes on from `s` to `t` within its frame. -/
def GoesOn (op : BitVec 3) (s t : State) : Prop := OperationFrame op s t ∧ Located op t

/-! ## The tests between two events -/

theorem goesOn_goto {op : BitVec 3} {p : Pos} (hop : posOp p = some op) (s : State)
    (hx : ∀ x, payloadAt p = some x → s.idx < xferLen s.cfg x := by rintro _ ⟨⟩) : GoesOn op s (goto p s) :=
  ⟨.refl op s, fun _ ho => Option.some.inj (ho.symm.trans hop), hx⟩

theorem goesOn_complete (op : BitVec 3) (v : Bool) (s : State) : GoesOn op s (complete v s) :=
  ⟨.refl op s, by rintro _ ⟨⟩, by rintro _ ⟨⟩⟩

theorem goesOn_ite {op : BitVec 3} {p : Prop} [Decidable p] {s a b : State} (ha : GoesOn op s a) (hb : GoesOn op s b) :
    GoesOn op s (if p then a else b) := by
  split
  · exact ha
  · exact hb

/-- The completions of `capacity` write the count (R140). -/
theorem goesOn_count (v : Bool) (n : Word) (free : Nat) (s : State) :
    GoesOn 2#3 s (complete v { s with capacityOut := n, freeCount := free }) :=
  ⟨⟨fun _ _ => rfl, fun _ _ _ => rfl, fun _ _ _ => rfl, fun h => absurd rfl h, fun _ => rfl⟩, by rintro _ ⟨⟩,
    by rintro _ ⟨⟩⟩

theorem startReady_goesOn (s : State) : GoesOn 1#3 s (startReady s) := by
  unfold startReady
  split <;> exact goesOn_goto rfl s

theorem toPrime_goesOn (left : Nat) (s : State) : GoesOn 1#3 s (toPrime left s) :=
  goesOn_ite (goesOn_goto rfl s) (goesOn_goto rfl s)

theorem toTrailer_goesOn (x : Xfer) (left : Nat) (s : State) : GoesOn (posOp.xferOp x) s (toTrailer x left s) :=
  goesOn_ite (goesOn_goto rfl s) (goesOn_goto rfl s)

theorem toPayload_goesOn (x : Xfer) (s : State) : GoesOn (posOp.xferOp x) s (toPayload x s) := by
  unfold toPayload
  split
  · refine goesOn_goto rfl s ?_
    rintro _ ⟨⟩
    assumption
  · exact toTrailer_goesOn x _ s

theorem startPayload_goesOn (x : Xfer) (s : State) : GoesOn (posOp.xferOp x) s (startPayload x s) :=
  toPayload_goesOn x { s with idx := 0 }

theorem toFill_goesOn (left : Nat) (s : State) : GoesOn 5#3 s (toFill left s) :=
  goesOn_ite (goesOn_goto rfl s) (goesOn_goto rfl s)

theorem toWrData_goesOn (s : State) : GoesOn 5#3 s (toWrData s) :=
  goesOn_ite (goesOn_goto rfl s) (toFill_goesOn _ s)

theorem waitDone_goesOn (w : Wait) (v : Bool) (s : State) : GoesOn (waitOp w) s (waitDone w v s) := by
  cases w <;> cases v
  case startToken.true x => exact startPayload_goesOn x (setTokOk true s)
  all_goals exact goesOn_goto rfl (setTokOk _ s)

theorem resume_goesOn (call : Call) (s : State) : GoesOn (callOp call) s (resume call s) := by
  cases call
  case reset => exact goesOn_ite (startReady_goesOn s) (goesOn_goto rfl s)
  case appPrefix => exact goesOn_goto rfl s
  all_goals exact goesOn_ite (goesOn_goto rfl s) (goesOn_goto rfl s)

theorem xferFailed_goesOn (x : Xfer) (s : State) : GoesOn (posOp.xferOp x) s (xferFailed x s) := by
  cases x
  case capacity => exact goesOn_count false 0#32 s.freeCount s
  all_goals exact goesOn_complete _ false s

theorem xferSucceeded_goesOn (x : Xfer) (s : State) : GoesOn (posOp.xferOp x) s (xferSucceeded x s) := by
  cases x
  case capacity => exact goesOn_goto rfl s
  all_goals exact goesOn_complete _ true s

theorem afterLatch_goesOn (site : LatchSite) (s : State) : GoesOn (siteOp site) s (afterLatch site s) := by
  cases site
  case tokenTimeout x => exact goesOn_ite (xferFailed_goesOn x s) (startPayload_goesOn x s)
  case busyTimeout => exact goesOn_goto rfl s
  all_goals exact goesOn_complete _ false s

theorem toCompute_goesOn (got : List Byte) (s : State) : GoesOn 2#3 s (toCompute got s) := by
  refine goesOn_ite (goesOn_goto rfl s) ?_
  obtain ⟨n, free, _, e⟩ := capacityDone_eq got s.freeCount
  rw [e s rfl]
  exact goesOn_count true n free s

theorem sendFrame_goesOn (call : Call) (bs : List Byte) (s : State) : GoesOn (callOp call) s (sendFrame call bs s) := by
  obtain ⟨sent, left, rfl, ⟨_, e⟩ | ⟨_, _, _, e⟩⟩ := sendFrame_cases call bs s <;> rw [e]
  · exact goesOn_goto (posOp_cmdPoll call) s
  · exact goesOn_goto (posOp_cmdSend call left) s

/-- A byte of a payload is written within the memory of its transfer, to a cell of its payload (R45, R120). -/
theorem store_frame (x : Xfer) (b : Byte) {s : State} (hi : s.idx < xferLen s.cfg x) :
    OperationFrame (posOp.xferOp x) s (setMem (xferDest x) (writeCell (memOf s (xferDest x)) s.idx b) s) := by
  have above : ∀ a, xferLen s.cfg x ≤ a → readCell (writeCell s.buf s.idx b) a = readCell s.buf a :=
    fun a ha => readCell_writeCell_other _ _ (by omega)
  cases x
  case capacity => exact ⟨fun _ _ => rfl, fun _ _ _ => rfl, fun _ _ _ => rfl, fun h => absurd rfl h, fun _ => rfl⟩
  case register =>
    exact ⟨fun h => absurd rfl h, fun _ => above, by rintro ⟨⟩, fun _ => ⟨rfl, rfl⟩, fun _ => rfl⟩
  case block =>
    exact ⟨fun _ h => absurd rfl h, by rintro ⟨⟩, fun _ => above, fun _ => ⟨rfl, rfl⟩, fun _ => rfl⟩

/-! ## One event -/

theorem onByte_goesOn {op : BitVec 3} {b : Byte} {s t : State} (hl : Located op s) (hb : awaitsByte s.pos = true)
    (h : onByte b s = .next t) : GoesOn op s t := by
  have stays : GoesOn op s s := ⟨.refl op s, hl⟩
  cases hp : s.pos <;> simp only [hp, awaitsByte, Bool.false_eq_true] at hb <;> simp only [onByte, hp] at h <;> cases h
  case cmdIdle call =>
    obtain rfl := hl.op_eq hp (posOp_cmdIdle call)
    exact goesOn_ite (goesOn_goto (posOp_cmdFrame call) (log (.recv b) s)) stays
  case cmdPoll call =>
    obtain rfl := hl.op_eq hp (posOp_cmdPoll call)
    exact goesOn_ite (resume_goesOn call (log (.recv b) { s with pos := .cmdPoll call, r1 := b, polls := s.polls + 1 }))
      (goesOn_goto (posOp_cmdPoll call) (log (.recv b) { s with r1 := b, polls := s.polls + 1 }))
  case tokRecv w =>
    obtain rfl := hl.op_eq hp (posOp_tokRecv w)
    exact goesOn_ite (waitDone_goesOn w true (log (.recv b) s)) (goesOn_goto (posOp_tokTick w) (log (.recv b) s))
  case payload x =>
    obtain rfl := hl.op_eq hp rfl
    refine goesOn_goto rfl (log (.recv b) s) ?_
    rintro _ ⟨⟩
    exact hl.idx_lt hp rfl
  case trailer x left =>
    obtain rfl := hl.op_eq hp rfl
    exact toTrailer_goesOn x _ (log (.recv b) s)
  case wrAck =>
    obtain rfl := hl.op_eq hp rfl
    exact goesOn_ite (goesOn_goto rfl (log (.recv b) { s with ack := b }))
      (goesOn_goto rfl (log (.recv b) { s with ack := b }))

theorem onTick_goesOn {op : BitVec 3} {n : Nat} {s : State} (hl : Located op s) (ht : awaitsTick s.pos = true) :
    GoesOn op s (onTick n s) := by
  cases hp : s.pos <;> simp only [hp, awaitsTick, Bool.false_eq_true] at ht <;> simp only [onTick, hp]
  case tokStart w =>
    obtain rfl := hl.op_eq hp (posOp_tokStart w)
    exact goesOn_goto (posOp_tokRecv w) (log (.tick n) { s with t0 := n })
  case tokTick w =>
    obtain rfl := hl.op_eq hp (posOp_tokTick w)
    exact goesOn_ite (waitDone_goesOn w false (log (.tick n) s)) (goesOn_goto (posOp_tokRecv w) (log (.tick n) s))
  all_goals obtain rfl := hl.op_eq hp rfl
  case initTick => exact goesOn_goto rfl (log (.tick n) { s with t0 := n })
  case initResetTick => exact goesOn_ite (goesOn_goto rfl (log (.tick n) s)) (goesOn_goto rfl (log (.tick n) s))
  case initReadyTick => exact goesOn_ite (goesOn_goto rfl (log (.tick n) s)) (startReady_goesOn (log (.tick n) s))

theorem onSilent_goesOn {op : BitVec 3} {s t : State} (hl : Located op s) (hi : s.pos ≠ .idle)
    (hb : awaitsByte s.pos = false) (ht : awaitsTick s.pos = false) (h : onSilent s = .next t) : GoesOn op s t := by
  cases hp : s.pos <;> simp only [hp, awaitsByte, awaitsTick, reduceCtorEq, ne_eq, not_true_eq_false] at hb ht hi <;>
    simp only [onSilent, hp] at h
  case store x b =>
    obtain rfl := hl.op_eq hp rfl
    obtain ⟨_, h⟩ := storeByte_next h
    cases h
    obtain ⟨hf, hloc⟩ := toPayload_goesOn x { log (.memWrite (xferDest x) s.idx b)
      (setMem (xferDest x) (writeCell (memOf s (xferDest x)) s.idx b) s) with idx := s.idx + 1 }
    exact ⟨(store_frame x b (hl.idx_lt hp rfl)).trans (setMem_cfg ..) hf, hloc⟩
  case capCompute got =>
    obtain rfl := hl.op_eq hp rfl
    obtain ⟨_, b, _, h⟩ := loadByte_next h
    cases h
    exact toCompute_goesOn _ (log _ s)
  case wrData =>
    obtain rfl := hl.op_eq hp rfl
    obtain ⟨_, b, _, h⟩ := loadByte_next h
    cases h
    exact goesOn_goto rfl (log _ s)
  case cmdSel call =>
    cases h
    obtain rfl := hl.op_eq hp (posOp_cmdSel call)
    exact goesOn_goto (posOp_cmdIdle call) (tSel s)
  case cmdFrame call =>
    cases h
    obtain rfl := hl.op_eq hp (posOp_cmdFrame call)
    exact sendFrame_goesOn call _ s
  case cmdSend call left =>
    cases h
    obtain rfl := hl.op_eq hp (posOp_cmdSend call left)
    exact sendFrame_goesOn call left s
  case latch site =>
    cases h
    obtain rfl := hl.op_eq hp (posOp_latch site)
    exact afterLatch_goesOn site (raiseLatch _ _ s)
  all_goals
    cases h
    obtain rfl := hl.op_eq hp rfl
  case initSlow =>
    exact ⟨⟨fun _ _ => rfl, fun _ _ _ => rfl, fun _ _ _ => rfl, fun _ => ⟨rfl, rfl⟩, fun h => absurd rfl h⟩,
      (goesOn_goto rfl (tSlowClock s)).2⟩
  case initDesel => exact toPrime_goesOn _ (tDesel s)
  case initPrime left => exact toPrime_goesOn _ (tSend _ s)
  case initSel => exact goesOn_goto rfl (tSel s)
  case initDone | wrDesel => exact goesOn_complete _ true (tDesel s)
  case regDesel x => exact xferFailed_goesOn x (tDesel s)
  case xferDesel x => exact xferSucceeded_goesOn x (tDesel s)
  case wrToken => exact toWrData_goesOn { tSend _ s with idx := 0 }
  case wrSend b => exact toWrData_goesOn { tSend b s with idx := s.idx + 1 }
  case wrFill left => exact toFill_goesOn _ (tSend _ s)

/-- Every event of an operation keeps its frame. -/
theorem seqStep_goesOn {op : BitVec 3} {s t : State} (hl : Located op s) (h : seqStep s = .next t) : GoesOn op s t := by
  by_cases hi : s.pos = .idle
  · cases (seqStep_idle hi).symm.trans h
    exact ⟨.refl op s, hl⟩
  revert h
  refine seqStep_cases (Q := fun r => r = .next t → GoesOn op s t) s ?_ ?_ ?_
  · exact fun hb b r f h => onByte_goesOn (s := { s with rx := r, freeCount := f }) hl hb h
  · rintro _ ht n r f _ ⟨⟩
    exact onTick_goesOn (s := { s with ticks := r, freeCount := f }) hl ht
  · exact fun hb ht h => onSilent_goesOn hl hi hb ht h

/-- One event at most is an addition to the history. -/
theorem OneEvent.suffix {s t : State} (h : OneEvent s t) : s.hist <:+ t.hist := by
  obtain e | ⟨_, e⟩ := h
  · rw [e]
  · rw [e]
    exact List.suffix_cons _ _

/-- An event adds to the history, one event at most where a move of the host waits (R51, R191). -/
theorem seqStep_history {s t : State} (h : seqStep s = .next t) :
    s.hist <:+ t.hist ∧ (s.host ≠ [] → OneEvent s t) := by
  by_cases hi : s.pos = .idle
  · cases (seqStep_idle hi).symm.trans h
    exact ⟨List.suffix_rfl, fun _ => .inl rfl⟩
  refine ⟨?_, (seqStep_effect hi h).hist⟩
  cases hf : framePart s with
  | some part =>
    cases (seqStep_of_framePart hf).symm.trans h
    obtain ⟨sent, left, _, ⟨_, e⟩ | ⟨_, _, _, e⟩⟩ := sendFrame_cases part.1 part.2 s <;> rw [e] <;>
      exact List.suffix_append _ _
  | none =>
    have waiting := seqStep_host_of_framePart hf [.pass]
    rw [h] at waiting
    exact OneEvent.suffix ((seqStep_effect (s := { s with host := [.pass] }) hi waiting).hist (by simp))

/-! ## A request -/

/-- What a request writes before the first event of its operation is no event, and none of the data in the frame. -/
theorem beginOperation_goesOn (op : BitVec 3) (arg : Word) (s : State) :
    GoesOn op s (beginOperation (accept op arg s)) := by
  cases op using op_cases
  case nop | reserved6 | reserved7 => exact goesOn_complete _ false (accept _ arg s)
  case initCard => exact goesOn_goto rfl (clearError (accept 1#3 arg s))
  all_goals exact goesOn_goto rfl (accept _ arg s)

theorem beginOperation_outside (s : State) :
    (beginOperation s).cfg = s.cfg ∧ (beginOperation s).host = s.host ∧ (beginOperation s).hist = s.hist := by
  unfold beginOperation
  split <;> exact ⟨rfl, rfl, rfl⟩

/-- A request that answers next has been ignored, or leaves what its operation has from its beginning and every event
keeps. -/
theorem request_keeps {P : State → Prop} {op : BitVec 3} {arg : Word} {s t : State}
    (hstep : ∀ u v, P u → seqStep u = .next v → P v) (hbegin : P (beginOperation (accept op arg s)))
    (h : request op arg s = .next t) : t = s ∨ P t := by
  revert h
  refine request_cases (Q := fun r => r = .next t → t = s ∨ P t) ?_ ?_ ?_
  · rintro _ ⟨⟩
    exact .inl rfl
  · rintro _ _ ⟨⟩
    exact .inr hbegin
  · exact fun _ _ h => .inr (settle_keeps hstep _ _ _ hbegin h)

/-- A request takes no move off the host's script. -/
theorem request_host {op : BitVec 3} {arg : Word} {s t : State} (h : request op arg s = .next t) : t.host = s.host := by
  obtain ⟨_, hhost, _⟩ := beginOperation_outside (accept op arg s)
  have keeps : ∀ u v : State, u.host = s.host → seqStep u = .next v → v.host = s.host := by
    intro u v hu he
    obtain ⟨_, _, _, hv⟩ := seqStep_same he
    exact hv.trans hu
  obtain rfl | ht := request_keeps keeps hhost h
  · rfl
  · exact ht

/-- A request adds to the history, and where a further move of the host waits it records no event (R51, R191). -/
theorem request_history {op : BitVec 3} {arg : Word} {s t : State} (h : request op arg s = .next t) :
    s.hist <:+ t.hist ∧ (s.host ≠ [] → t.hist = s.hist) := by
  obtain ⟨_, _, hhist⟩ := beginOperation_outside (accept op arg s)
  constructor
  · obtain rfl | ht := request_keeps (P := fun u => s.hist <:+ u.hist)
      (fun u v hu he => hu.trans (seqStep_history he).1) (hhist ▸ List.suffix_rfl) h
    · exact List.suffix_rfl
    · exact ht
  · intro hh
    revert h
    refine request_cases (Q := fun r => r = .next t → t.hist = s.hist) ?_ ?_ ?_
    · rintro _ ⟨⟩
      rfl
    · rintro _ _ ⟨⟩
      exact hhist
    · exact fun _ hn => absurd hn hh

/-- Of the data a request changes what its operation may (R17, R43, R206). -/
theorem request_frame {op : BitVec 3} {arg : Word} {s t : State} (h : request op arg s = .next t) :
    OperationFrame op s t := by
  obtain ⟨hcfg, _⟩ := beginOperation_outside (accept op arg s)
  have keeps : ∀ u v : State, GoesOn op s u ∧ u.cfg = s.cfg → seqStep u = .next v →
      GoesOn op s v ∧ v.cfg = s.cfg := by
    rintro u v ⟨⟨hf, hl⟩, hc⟩ he
    obtain ⟨hf', hl'⟩ := seqStep_goesOn hl he
    obtain ⟨hc', _⟩ := seqStep_same he
    exact ⟨⟨hf.trans hc hf', hl'⟩, hc'.trans hc⟩
  obtain rfl | ⟨⟨ht, _⟩, _⟩ := request_keeps keeps ⟨beginOperation_goesOn op arg s, hcfg⟩ h
  · exact .refl op t
  · exact ht

/-- The operation that a request of the host port numbers (R60, R61). -/
def requestOp : Instr → Option (BitVec 3)
  | .nop _ => some 0#3
  | .initCard _ => some 1#3
  | .capacity _ => some 2#3
  | .readRegister _ _ => some 3#3
  | .readBlock _ => some 4#3
  | .writeBlock _ => some 5#3
  | .reserved6 _ => some 6#3
  | .reserved7 _ => some 7#3
  | _ => none

/-- What each request leaves alone. -/
theorem exec_request_frame {i : Instr} {op : BitVec 3} {s t : State} (hi : requestOp i = some op)
    (h : exec i s = .next t) : OperationFrame op s t ∧ t.cfg = s.cfg ∧ t.host = s.host := by
  cases i <;> simp only [requestOp, reduceCtorEq, Option.some.injEq] at hi <;> subst hi
  case nop =>
    cases h
    exact ⟨.refl _ s, rfl, rfl⟩
  all_goals exact ⟨request_frame h, request_config h, request_host h⟩

/-- The requests of a list leave alone what the operations they number do. -/
theorem exec_frame_of_mem {l : List Instr} {ops : List (BitVec 3)} (hl : l.map requestOp = ops.map some) {i : Instr}
    (hi : i ∈ l) {s t : State} (h : exec i s = .next t) :
    ∃ op ∈ ops, OperationFrame op s t ∧ t.cfg = s.cfg ∧ t.host = s.host := by
  have hm : requestOp i ∈ ops.map some := hl ▸ List.mem_map_of_mem hi
  obtain ⟨op, hop, e⟩ := List.mem_map.1 hm
  exact ⟨op, hop, exec_request_frame e.symm h⟩

end Sys2Proof.Machine
end

section
/-! PROOF. The memory map, the byte orders and the order of events (spec/20_memory.md): the history, what each request
leaves unchanged, the payload's order, the canonical form, the bytes of a frame, the card byte address. -/

namespace Sys2Proof.Machine

/-- Settles O16: every event adds to the history, one event at most where a move waits, and no move of the host takes
anything off it. -/
theorem historyOnlyGrows : Obligations.HistoryOnlyGrows := by
  intro s t
  refine step_cases (Q := fun r => r = .next t → s.hist <:+ t.hist ∧ (t.host ≠ [] → OneEvent s t)) s
    ?event ?await ?nop ?req ?write ?read ?reset
  case event =>
    intro host _ h
    obtain ⟨hgrows, hone⟩ := seqStep_history h
    obtain ⟨_, _, _, hhost⟩ := seqStep_same h
    exact ⟨hgrows, fun hne => hone (hhost ▸ hne)⟩
  case req =>
    intro w rest _ _ h
    obtain ⟨hgrows, hnone⟩ := request_history h
    exact ⟨hgrows, fun hne => .inl (hnone (request_host h ▸ hne))⟩
  case await | nop =>
    intros
    rename_i h
    cases h
    exact ⟨List.suffix_rfl, fun _ => .inl rfl⟩
  case write =>
    intro i b rest _ h
    obtain ⟨_, _, rfl⟩ := hostWrite_next h
    exact ⟨List.suffix_rfl, fun _ => .inl rfl⟩
  case read =>
    intro i rest _ h
    obtain ⟨_, rfl⟩ := hostRead_next h
    exact ⟨List.suffix_rfl, fun _ => .inl rfl⟩
  case reset =>
    rintro rest _ ⟨⟩
    exact ⟨List.suffix_cons Event.desel s.hist, fun _ => .inr ⟨.desel, rfl⟩⟩

/-- Settles O23: each event keeps the frame of the operation in flight, so each request that of its own. -/
theorem requestsFrame : Obligations.RequestsFrame := by
  refine ⟨fun s t hi h => ?_, fun s t arg cmd top => ⟨?_, ?_, ?_, ?_, ?_, ?_⟩⟩
  · obtain ⟨⟨hbuf, hreg, hblk, hcap, hclk⟩, _⟩ := seqStep_goesOn hi.located h
    obtain ⟨hcfg, _, _, hhost⟩ := seqStep_same h
    exact ⟨hbuf, hreg, hblk, hcap, hclk, hcfg, hhost⟩
  · intro i hi h a
    obtain ⟨op, hop, ⟨hbuf, _⟩, _⟩ := exec_frame_of_mem (ops := [0#3, 1#3, 2#3, 5#3, 6#3, 7#3]) rfl hi h
    rw [hbuf (ne_of_mem_of_not_mem hop (by decide)) (ne_of_mem_of_not_mem hop (by decide))]
  · intro h
    obtain ⟨⟨_, hreg, _⟩, _⟩ := exec_request_frame rfl h
    exact hreg rfl
  · intro h
    obtain ⟨⟨_, _, hblk, _⟩, _⟩ := exec_request_frame rfl h
    exact hblk rfl
  · intro i hi h
    obtain ⟨op, hop, ⟨_, _, _, hcap, _⟩, _⟩ :=
      exec_frame_of_mem (ops := [0#3, 1#3, 3#3, 4#3, 5#3, 6#3, 7#3]) rfl hi h
    obtain ⟨hcsdr, hout⟩ := hcap (ne_of_mem_of_not_mem hop (by decide))
    exact ⟨fun a => by rw [hcsdr], hout⟩
  · intro i hi h
    obtain ⟨op, hop, ⟨_, _, _, _, hclk⟩, _⟩ :=
      exec_frame_of_mem (ops := [0#3, 2#3, 3#3, 4#3, 5#3, 6#3, 7#3]) rfl hi h
    exact hclk (ne_of_mem_of_not_mem hop (by decide))
  · intro i hi h
    obtain ⟨_, _, _, hcfg, hhost⟩ :=
      exec_frame_of_mem (ops := [0#3, 1#3, 2#3, 3#3, 4#3, 5#3, 6#3, 7#3]) rfl hi h
    exact ⟨hcfg, hhost⟩

/-- Settles O44, by induction on the payload: its first byte is written first, and the others go above it. -/
theorem payloadInOrder : Obligations.PayloadInOrder := by
  intro m i a bs
  induction bs generalizing m i with
  | nil => rw [fillFrom_nil, if_neg (by simp)]
  | cons b bs ih =>
    rw [fillFrom_cons, ih, readCell_writeCell, List.length_cons]
    rcases Nat.lt_trichotomy a i with ha | rfl | ha
    · rw [if_neg (by omega), if_neg (by omega), if_neg (by omega)]
    · rw [if_neg (by omega), if_pos rfl, if_pos (by omega), Nat.sub_self, List.getElem?_cons_zero]
    · rw [if_neg (show ¬a = i by omega), show a - i = a - (i + 1) + 1 by omega, List.getElem?_cons_succ]
      exact if_congr (by omega) rfl rfl

/-- Settles O45, by induction on the first memory: the lowest cells agree, then the cells after them. -/
theorem canonicalMemoriesAreEqual : Obligations.CanonicalMemoriesAreEqual := by
  intro m m' hm hm' h
  induction m generalizing m' with
  | nil =>
    cases m' with
    | nil => rfl
    | cons d m' => simpa [readCell_cons_head] using h d.1
  | cons c m ih =>
    cases m' with
    | nil => simpa [readCell_cons_head] using h c.1
    | cons d m' =>
      obtain rfl := head_eq_of_readCell_eq hm hm' h
      rw [ih m' hm.of_cons hm'.of_cons (readCell_tail_eq hm hm' h)]

/-- Settles O4: the step sends the frame's bytes together, and they are the bytes of its fields. -/
theorem commandAndArgumentBytes : Obligations.CommandAndArgumentBytes := by
  intro s call hh hp hl cmd arg
  have sends : seqStep s = .next (sendFrame call (frameBytes (frameWord s.cfg cmd arg)) s) := by
    rw [seqStep_of_framePart (by rw [framePart, hp]), hl]
    rfl
  refine ⟨_, (step_of_quiet hh).trans sends, ?_⟩
  rw [sendFrame_quiet _ hh, frameBytes_frameWord]
  rfl

/-- A block number shifted to a byte address keeps its low bits, times the block (R47). -/
theorem blockAddr_toNat {c : Config} (n : Word) (h : c.blockShift ≤ 32) :
    (blockAddr c n).toNat = n.toNat % 2 ^ (32 - c.blockShift) * 2 ^ c.blockShift := by
  have hpow : 2 ^ 32 = 2 ^ (32 - c.blockShift) * 2 ^ c.blockShift := by
    rw [← Nat.pow_add, Nat.sub_add_cancel h]
  rw [blockAddr, BitVec.toNat_shiftLeft, Nat.shiftLeft_eq, hpow, Nat.mul_mod_mul_right]

/-- Settles O42: the shift in 32 bits loses the bits above, and below 2^23 there are none. -/
theorem blockAddressTruncates : Obligations.BlockAddressTruncates := by
  refine ⟨fun c n h => blockAddr_toNat n h.le, fun c n h hn => ?_⟩
  rw [blockAddr_toNat n (by omega), h, Nat.mod_eq_of_lt hn]
  rfl

end Sys2Proof.Machine
end

section
/-! SUPPORT. What the decoder reads of an encoded instruction, and what the encoder writes of a decoded one, format by
format: request words, frames, bytes. -/

namespace Sys2Proof.Machine

/-! ## Request words -/

@[simp] theorem reqOp_reqWord (op : BitVec 3) (arg : Word) : reqOp (reqWord op arg) = op :=
  BitVec.extractLsb'_append_eq_left

@[simp] theorem reqArg_reqWord (op : BitVec 3) (arg : Word) : reqArg (reqWord op arg) = arg :=
  BitVec.extractLsb'_append_eq_right

/-- A request word is the word of its fields (R60). -/
theorem reqWord_fields (w : ReqWord) : reqWord (reqOp w) (reqArg w) = w := by
  unfold reqWord reqOp reqArg
  rw [BitVec.extractLsb'_append_extractLsb'_eq_extractLsb' (by rfl)]
  exact BitVec.extractLsb'_eq_self

/-- The word of a request decodes to that request. -/
theorem decodeHostReq_of_encode {c : Config} {i : Instr} {w : ReqWord} (h : encode c i = .hostReq w) :
    decodeHostReq w = i := by
  cases i <;> simp only [encode, reduceCtorEq, Wire.hostReq.injEq] at h <;> subst h <;>
    simp only [decodeHostReq, reqOp_reqWord, reqArg_reqWord]
  case readRegister cmd rest =>
    exact congrArg₂ Instr.readRegister BitVec.extractLsb'_append_eq_right BitVec.extractLsb'_append_eq_left
  all_goals rfl

/-- Every request word is the word of the request it decodes to, and any operand is one of its row's. -/
theorem encode_decodeHostReq (c : Config) (w : ReqWord) :
    encode c (decodeHostReq w) = .hostReq w ∧ (decodeHostReq w).wellFormed c = true := by
  obtain ⟨op, arg, rfl⟩ : ∃ op arg, w = reqWord op arg := ⟨_, _, (reqWord_fields w).symm⟩
  simp only [decodeHostReq, reqOp_reqWord, reqArg_reqWord]
  cases op using op_cases
  case readRegister => exact ⟨congrArg (fun a => Wire.hostReq (reqWord 3#3 a)) (argRest_append_argCmd arg), rfl⟩
  all_goals exact ⟨rfl, rfl⟩

/-! ## Frames -/

@[simp] theorem frameStart_frameWord (c : Config) (cmd : CmdIndex) (arg : Word) :
    frameStart (frameWord c cmd arg) = 1#2 := by
  rw [frameStart, frameWord, BitVec.extractLsb'_append_eq_of_le (by decide),
    BitVec.extractLsb'_append_eq_of_le (by decide)]
  exact BitVec.extractLsb'_append_eq_left

@[simp] theorem frameIdx_frameWord (c : Config) (cmd : CmdIndex) (arg : Word) :
    frameIdx (frameWord c cmd arg) = cmd := by
  rw [frameIdx, frameWord, BitVec.extractLsb'_append_eq_of_le (by decide),
    BitVec.extractLsb'_append_eq_of_le (by decide)]
  exact BitVec.extractLsb'_append_eq_right

@[simp] theorem frameArg_frameWord (c : Config) (cmd : CmdIndex) (arg : Word) :
    frameArg (frameWord c cmd arg) = arg := by
  rw [frameArg, frameWord, BitVec.extractLsb'_append_eq_of_le (by decide)]
  exact BitVec.extractLsb'_append_eq_right

@[simp] theorem frameCks_frameWord (c : Config) (cmd : CmdIndex) (arg : Word) :
    frameCks (frameWord c cmd arg) = checksumByte c cmd :=
  frameWord_checksum c cmd arg

/-- The frame of an index without an argument decodes by the index alone (R65). -/
theorem decodeFrame_zeroArg (c : Config) (cmd : CmdIndex) :
    decodeFrame c (frameWord c cmd 0#32) = .ok (decodeZeroArg c cmd) := by
  simp [decodeFrame]

/-- The frame of an index with a block-aligned argument decodes by the index to a block command, if it is one's. -/
theorem decodeFrame_alignedArg {c : Config} {arg : Word} (cmd : CmdIndex) (h0 : arg ≠ 0#32)
    (ha : alignedArg c arg = true) : decodeFrame c (frameWord c cmd arg) =
      if cmd = c.cmdReadBlock then .ok (.cmd17 arg) else if cmd = c.cmdWriteBlock then .ok (.cmd24 arg)
      else .error .noSuchFrame := by
  simp [decodeFrame, h0, ha]

theorem namedIndices_nodup {c : Config} (h : c.wf = true) : c.namedIndices.Nodup := by
  simp only [Config.wf, Bool.and_eq_true, decide_eq_true_eq] at h
  exact h.2

/-- The named indices differ, so each has the row the table gives it (R72 to R79). -/
theorem decodeZeroArg_named {c : Config} (h : c.namedIndices.Nodup) :
    c.namedIndices.map (decodeZeroArg c) =
      [.cmd0, .cmd1, .cmd9, .cmd10, .cmd17 0#32, .cmd24 0#32, .cmd55, .acmd41] := by
  simp only [Config.namedIndices, List.nodup_cons, List.mem_cons, List.not_mem_nil, or_false, not_or] at h
  simp [Config.namedIndices, decodeZeroArg, h, eq_comm]

/-- An index that is none of the named ones has the generic row (R146). -/
theorem decodeZeroArg_unnamed {c : Config} {cmd : CmdIndex} (h : cmd ∉ c.namedIndices) :
    decodeZeroArg c cmd = .cmdN cmd := by
  simp only [Config.namedIndices, List.mem_cons, List.not_mem_nil, or_false, not_or] at h
  simp [decodeZeroArg, h]

theorem cmdWriteBlock_ne_cmdReadBlock {c : Config} (h : c.namedIndices.Nodup) : c.cmdWriteBlock ≠ c.cmdReadBlock := by
  simp only [Config.namedIndices, List.nodup_cons, List.mem_cons, not_or] at h
  obtain ⟨_, _, _, _, ⟨hne, _⟩, _⟩ := h
  exact Ne.symm hne

/-- The frame of a well-formed instruction decodes to it: by the index where the argument is 0, and a block command's
by its aligned argument too (R72 to R79, R146). -/
theorem decodeFrame_of_encode {c : Config} {i : Instr} {w : FrameWord} (hc : c.wf = true)
    (hi : i.wellFormed c = true) (h : encode c i = .frame w) : decodeFrame c w = .ok i := by
  have hn := namedIndices_nodup hc
  have named := decodeZeroArg_named hn
  simp only [Config.namedIndices, List.map_cons, List.map_nil, List.cons.injEq, and_true] at named
  obtain ⟨cmd0, cmd1, cmd9, cmd10, cmd17, cmd24, cmd55, acmd41⟩ := named
  cases i <;> simp only [encode, reduceCtorEq, Wire.frame.injEq] at h <;> subst h
  case cmd17 arg =>
    by_cases h0 : arg = 0#32
    · rw [h0, decodeFrame_zeroArg, cmd17]
    · rw [decodeFrame_alignedArg _ h0 hi, if_pos rfl]
  case cmd24 arg =>
    by_cases h0 : arg = 0#32
    · rw [h0, decodeFrame_zeroArg, cmd24]
    · rw [decodeFrame_alignedArg _ h0 hi, if_neg (cmdWriteBlock_ne_cmdReadBlock hn), if_pos rfl]
  case cmdN cmd =>
    rw [decodeFrame_zeroArg, decodeZeroArg_unnamed (by simpa [Instr.wellFormed] using hi)]
  all_goals simp only [decodeFrame_zeroArg, cmd0, cmd1, cmd9, cmd10, cmd55, acmd41]

/-! ## Bytes -/

/-- Bit 7 of the byte of R1_NOT_YET is set (R67). -/
theorem notYet_append (low : BitVec 7) : notYet (1#1 ++ low) = true := by
  rw [notYet, BitVec.getLsbD_append]
  rfl

/-- What a well-formed configuration asks of the two responses: bit 7 clear, and not equal (R67). -/
theorem wf_responses {c : Config} (h : c.wf = true) :
    notYet c.r1Idle = false ∧ notYet c.r1Ready = false ∧ c.r1Idle ≠ c.r1Ready := by
  simp only [Config.wf, Bool.and_eq_true, decide_eq_true_eq, Bool.not_eq_true'] at h
  obtain ⟨⟨⟨⟨⟨_, hidle⟩, hready⟩, hne⟩, _⟩, _⟩ := h
  exact ⟨hidle, hready, hne⟩

/-- The byte of a well-formed instruction decodes to it at its position (R67 to R69, R71). -/
theorem decodeByte_of_encode {c : Config} {i : Instr} {b : Byte} (hc : c.wf = true) (hi : i.wellFormed c = true)
    (h : encode c i = .byte b) : decodeByte c i.ctx b = .ok i := by
  obtain ⟨hidle, hready, hne⟩ := wf_responses hc
  cases i <;> simp only [encode, reduceCtorEq, Wire.byte.injEq] at h <;> subst h
  case r1NotYet low =>
    refine (if_pos (notYet_append low)).trans ?_
    rw [BitVec.extractLsb'_append_eq_right]
  case r1Ready => exact (if_neg (ne_true_of_eq_false hready)).trans (if_pos rfl)
  case r1Idle => exact (if_neg (ne_true_of_eq_false hidle)).trans ((if_neg hne).trans (if_pos rfl))
  case dataResAccepted b => exact if_pos (beq_iff_eq.1 hi)
  all_goals exact if_pos rfl

/-- A byte that decodes at a position is the byte of the instruction, which is well formed (R81). -/
theorem encode_of_decodeByte {c : Config} {ctx : ByteCtx} {b : Byte} {i : Instr} (h : decodeByte c ctx b = .ok i) :
    encode c i = .byte b ∧ i.wellFormed c = true := by
  cases ctx <;> simp only [decodeByte] at h
  case response =>
    split_ifs at h with h7 hr hi <;> cases h
    · exact ⟨congrArg Wire.byte (notYet_byte h7), rfl⟩
    · exact ⟨congrArg Wire.byte hr.symm, rfl⟩
    · exact ⟨congrArg Wire.byte hi.symm, rfl⟩
  case dataResponse =>
    split_ifs at h with hd
    cases h
    exact ⟨rfl, beq_iff_eq.2 hd⟩
  all_goals
    split_ifs at h with hb
    cases h
    exact ⟨congrArg Wire.byte hb.symm, rfl⟩

end Sys2Proof.Machine
end

section
/-! SUPPORT. What `exec` of a frame or byte row does at each position: no event is refused, a byte row changes the working
registers, the position and the history only, a response sends each call to one position; the capacity formula. -/

namespace Sys2Proof.Machine

/-! ## The event a row stands for -/

/-- A byte row is received, or it is sent where SDCORE sends it, or it has no effect (R68, R71, R81). -/
theorem exec_of_encode_byte {i : Instr} {b : Byte} {s : State} (h : encode s.cfg i = .byte b) :
    exec i s = onByte b s ∨ (s.pos = .wrToken ∨ sendsFill s.pos = true) ∧ exec i s = onSilent s ∨
      exec i s = .next s := by
  cases i <;> simp only [encode, reduceCtorEq, Wire.byte.injEq] at h <;> subst h
  case startToken =>
    by_cases hp : s.pos = .wrToken
    · exact .inr (.inl ⟨.inl hp, if_pos hp⟩)
    · exact .inl (if_neg hp)
  case fillByte =>
    by_cases hp : sendsFill s.pos = true
    · exact .inr (.inl ⟨.inr hp, if_pos hp⟩)
    · exact .inr (.inr (if_neg hp))
  all_goals exact .inl rfl

/-- At the framer's position a frame row is transmitted (R100). -/
theorem transmitHere_of_cmdFrame {w : FrameWord} {call : Call} {s : State} (hp : s.pos = .cmdFrame call) :
    transmitHere w s = .next (transmit w call s) := by
  simp only [transmitHere, hp]

/-- Elsewhere a frame row has no effect (log 12). -/
theorem transmitHere_elsewhere {w : FrameWord} {s : State} (h : ∀ call, s.pos ≠ .cmdFrame call) :
    transmitHere w s = .next s := by
  cases hp : s.pos
  case cmdFrame call => exact absurd hp (h call)
  all_goals simp only [transmitHere, hp]

/-- Where nothing is received a received byte has no effect (log 12). -/
theorem onByte_elsewhere {b : Byte} {s : State} (h : awaitsByte s.pos = false) : onByte b s = .next s := by
  cases hp : s.pos <;> simp only [hp, awaitsByte, Bool.true_eq_false] at h <;> simp only [onByte, hp]

/-! ## No event is refused -/

theorem transmitHere_next (w : FrameWord) (s : State) : ∃ t, transmitHere w s = .next t := by
  unfold transmitHere
  split <;> exact ⟨_, rfl⟩

/-- An event without an answer goes on or, at an access to a memory, faults. -/
theorem onSilent_ne_refused (s : State) (r : Refusal) : onSilent s ≠ .refused r := by
  have load : ∀ d i k, (∀ b s', k b s' ≠ .refused r) → loadByte d i s k ≠ .refused r := fun d i k hk =>
    loadByte_cases (Q := (· ≠ .refused r)) (fun b _ _ => hk b _) (by simp) (by simp)
  cases hp : s.pos <;> simp only [onSilent, hp, ne_eq, reduceCtorEq, not_false_eq_true]
  case store x b =>
    unfold storeByte
    split <;> simp
  case capCompute got => exact load _ _ _ (by simp)
  case wrData => exact load _ _ _ (by simp)

theorem onByte_ne_refused (b : Byte) (s : State) (r : Refusal) : onByte b s ≠ .refused r := by
  obtain ⟨t, ht⟩ := onByte_next b s
  simp [ht]

theorem seqStep_ne_refused (s : State) (r : Refusal) : seqStep s ≠ .refused r :=
  seqStep_cases (Q := (· ≠ .refused r)) s (fun _ b _ _ => onByte_ne_refused b _ r) (by simp)
    fun _ _ => onSilent_ne_refused s r

theorem settle_ne_refused (n : Nat) (s : State) (r : Refusal) : settle n s ≠ .refused r := by
  induction n generalizing s with
  | zero => simp [settle]
  | succ n ih =>
    unfold settle
    split
    · simp
    · split
      · exact ih _
      · simp
      · exact absurd ‹_› (seqStep_ne_refused s _)

theorem request_ne_refused (op : BitVec 3) (arg : Word) (s : State) (r : Refusal) : request op arg s ≠ .refused r :=
  request_cases (Q := (· ≠ .refused r)) (by simp) (by simp) fun _ _ => settle_ne_refused _ _ r

/-- Every row of the table has a meaning: a request, a frame or a byte. -/
theorem exec_ne_refused (i : Instr) (s : State) (r : Refusal) : exec i s ≠ .refused r := by
  cases h : encode s.cfg i with
  | hostReq w =>
    rw [← decodeHostReq_of_encode h, exec_decodeHostReq]
    split
    · simp
    · exact request_ne_refused _ _ s r
  | frame w =>
    obtain ⟨t, ht⟩ := transmitHere_next w s
    simp [exec_of_encode_frame h, ht]
  | byte b =>
    obtain e | ⟨_, e⟩ | e := exec_of_encode_byte h <;> rw [e]
    · exact onByte_ne_refused b s r
    · exact onSilent_ne_refused s r
    · simp

theorem hostWrite_ne_refused (i : Nat) (b : Byte) (s : State) (r : Refusal) : hostWrite i b s ≠ .refused r := by
  unfold hostWrite
  split_ifs <;> simp

theorem hostRead_ne_refused (i : Nat) (s : State) (r : Refusal) : hostRead i s ≠ .refused r := by
  unfold hostRead
  split_ifs
  · simp
  · cases readCell s.buf i <;> simp
  · simp

theorem step_ne_refused (s : State) (r : Refusal) : step s ≠ .refused r :=
  step_cases (Q := (· ≠ .refused r)) s (fun _ _ => seqStep_ne_refused _ r) (by simp) (by simp)
    (fun _ _ _ _ => request_ne_refused _ _ _ r) (fun i b _ _ => hostWrite_ne_refused i b _ r)
    (fun i _ _ => hostRead_ne_refused i _ r) (by simp)

/-! ## What a byte row changes -/

/-- `t` differs from `s` in the working registers of a transfer, the position and the history only. -/
def WorkingOnly (s t : State) : Prop :=
  ∃ r1 ack polls idx tokOk pos hist, t = { s with
    r1 := r1, ack := ack, polls := polls, idx := idx, tokOk := tokOk, pos := pos, hist := hist }

theorem WorkingOnly.refl (s : State) : WorkingOnly s s := ⟨_, _, _, _, _, _, _, rfl⟩

theorem WorkingOnly.trans {s t u : State} (h : WorkingOnly s t) (h' : WorkingOnly t u) : WorkingOnly s u := by
  obtain ⟨_, _, _, _, _, _, _, rfl⟩ := h
  obtain ⟨_, _, _, _, _, _, _, rfl⟩ := h'
  exact ⟨_, _, _, _, _, _, _, rfl⟩

theorem workingOnly_goto (p : Pos) (s : State) : WorkingOnly s (goto p s) := ⟨_, _, _, _, _, _, _, rfl⟩

theorem workingOnly_log (e : Event) (s : State) : WorkingOnly s (log e s) := ⟨_, _, _, _, _, _, _, rfl⟩

theorem workingOnly_setTokOk (v : Bool) (s : State) : WorkingOnly s (setTokOk v s) := ⟨_, _, _, _, _, _, _, rfl⟩

theorem workingOnly_idx (n : Nat) (s : State) : WorkingOnly s { s with idx := n } := ⟨_, _, _, _, _, _, _, rfl⟩

theorem workingOnly_ite {p : Prop} [Decidable p] {s a b : State} (ha : WorkingOnly s a) (hb : WorkingOnly s b) :
    WorkingOnly s (if p then a else b) := by
  split
  · exact ha
  · exact hb

theorem startReady_workingOnly (s : State) : WorkingOnly s (startReady s) := by
  unfold startReady
  split <;> exact workingOnly_goto _ s

theorem toPrime_workingOnly (left : Nat) (s : State) : WorkingOnly s (toPrime left s) :=
  workingOnly_ite (workingOnly_goto _ s) (workingOnly_goto _ s)

theorem toFill_workingOnly (left : Nat) (s : State) : WorkingOnly s (toFill left s) :=
  workingOnly_ite (workingOnly_goto _ s) (workingOnly_goto _ s)

theorem toTrailer_workingOnly (x : Xfer) (left : Nat) (s : State) : WorkingOnly s (toTrailer x left s) :=
  workingOnly_ite (workingOnly_goto _ s) (workingOnly_goto _ s)

theorem startPayload_workingOnly (x : Xfer) (s : State) : WorkingOnly s (startPayload x s) :=
  (workingOnly_idx 0 s).trans (workingOnly_ite (workingOnly_goto _ _) (toTrailer_workingOnly x _ _))

theorem startWrData_workingOnly (s : State) : WorkingOnly s (startWrData s) :=
  (workingOnly_idx 0 s).trans (workingOnly_ite (workingOnly_goto _ _) (toFill_workingOnly _ _))

theorem waitDone_workingOnly (w : Wait) (v : Bool) (s : State) : WorkingOnly s (waitDone w v s) := by
  cases w <;> cases v
  case startToken.true x => exact (workingOnly_setTokOk true s).trans (startPayload_workingOnly x _)
  all_goals exact (workingOnly_setTokOk _ s).trans (workingOnly_goto _ _)

theorem resume_workingOnly (call : Call) (s : State) : WorkingOnly s (resume call s) := by
  cases call
  case reset => exact workingOnly_ite (startReady_workingOnly s) (workingOnly_goto _ s)
  case appPrefix => exact workingOnly_goto _ s
  all_goals exact workingOnly_ite (workingOnly_goto _ s) (workingOnly_goto _ s)

/-- A receive changes the working registers, the position and the history only: a payload byte is stored by the event
after it (R120). -/
theorem onByte_workingOnly {b : Byte} {s t : State} (h : onByte b s = .next t) : WorkingOnly s t := by
  have received := workingOnly_log (.recv b) s
  cases hp : s.pos <;> simp only [onByte, hp] at h <;> cases h
  case cmdIdle call => exact workingOnly_ite (received.trans (workingOnly_goto _ _)) received
  case cmdPoll call =>
    have polled : WorkingOnly s (log (.recv b) { s with pos := .cmdPoll call, r1 := b, polls := s.polls + 1 }) :=
      ⟨_, _, _, _, _, _, _, rfl⟩
    exact workingOnly_ite (polled.trans (resume_workingOnly call _)) polled
  case tokRecv w =>
    exact workingOnly_ite (received.trans (waitDone_workingOnly w true _)) (received.trans (workingOnly_goto _ _))
  case payload x => exact received.trans (workingOnly_goto _ _)
  case trailer x left => exact received.trans (toTrailer_workingOnly x _ _)
  case wrAck =>
    have answered : WorkingOnly s (log (.recv b) { s with pos := .wrAck, ack := b }) := ⟨_, _, _, _, _, _, _, rfl⟩
    exact workingOnly_ite (answered.trans (workingOnly_goto _ _)) (answered.trans (workingOnly_goto _ _))
  all_goals exact .refl s

/-- So does the send of a start token or of a filler (R71, R153 a). -/
theorem onSilent_workingOnly {s t : State} (hp : s.pos = .wrToken ∨ sendsFill s.pos = true)
    (h : onSilent s = .next t) : WorkingOnly s t := by
  have sent := fun b => workingOnly_log (.send b) s
  cases hq : s.pos <;> simp only [hq, sendsFill, reduceCtorEq, Bool.false_eq_true, or_self] at hp <;>
    simp only [onSilent, hq] at h <;> cases h
  case initPrime left => exact (sent _).trans (toPrime_workingOnly _ _)
  case wrToken => exact (sent _).trans (startWrData_workingOnly _)
  case wrFill left => exact (sent _).trans (toFill_workingOnly _ _)

/-- A byte row changes the working registers, the position and the history only, wherever it stands. -/
theorem exec_byte_workingOnly {i : Instr} {b : Byte} {s t : State} (hi : encode s.cfg i = .byte b)
    (h : exec i s = .next t) : WorkingOnly s t := by
  obtain e | ⟨hp, e⟩ | e := exec_of_encode_byte hi <;> rw [e] at h
  · exact onByte_workingOnly h
  · exact onSilent_workingOnly hp h
  · cases h
    exact .refl s

/-! ## Where a response leads -/

/-- A caller of CARDCMD that gets the ready response goes on to what that one leads to. -/
theorem resume_of_ready {call : Call} {s : State} (hr : s.r1 = s.cfg.r1Ready) (hne : s.cfg.r1Idle ≠ s.cfg.r1Ready) :
    resume call s = goto (afterReady call) s := by
  cases call <;> simp only [resume, afterReady, hr, if_true]
  case reset => rw [if_neg hne.symm]

/-- Only the caller of the reset command awaits the idle response (R132). -/
theorem resume_of_idle {call : Call} {s : State} (hr : s.r1 = s.cfg.r1Idle) (hne : s.cfg.r1Idle ≠ s.cfg.r1Ready) :
    resume call s = goto (afterIdle s.cfg call) s := by
  cases call <;> simp only [resume, afterIdle, afterOther, hr, if_true, if_neg hne]
  case reset => cases hs : s.cfg.initStrategy <;> simp only [startReady, hs]

/-- Any other response is one the caller does not look for (D10). -/
theorem resume_of_other {call : Call} {s : State} (hidle : s.r1 ≠ s.cfg.r1Idle) (hready : s.r1 ≠ s.cfg.r1Ready) :
    resume call s = goto (afterOther call) s := by
  cases call <;> simp only [resume, afterOther, if_neg hidle, if_neg hready]

/-- A receive of the response poll that ends it: the caller resumes with the byte (R102). -/
theorem onByte_pollEnds {b : Byte} {call : Call} {s : State} (hp : s.pos = .cmdPoll call)
    (he : pollEnds s.cfg (s.polls + 1) b = true) :
    onByte b s = .next (resume call (log (.recv b) { s with r1 := b, polls := s.polls + 1 })) := by
  simp only [onByte, hp, he, if_true]

/-- A receive of the response poll that leaves it waiting (R102). -/
theorem onByte_pollGoesOn {b : Byte} {call : Call} {s : State} (hp : s.pos = .cmdPoll call)
    (he : pollEnds s.cfg (s.polls + 1) b = false) :
    onByte b s = .next (log (.recv b) { s with r1 := b, polls := s.polls + 1 }) := by
  simp only [onByte, hp, he, Bool.false_eq_true, if_false]

/-- The latch of a site, then what follows it, is one event (R163). -/
theorem seqStep_of_latch {site : LatchSite} {s : State} (hp : s.pos = .latch site) :
    seqStep s = .next (latchAt site s) := by
  rw [seqStep_of_silent (by rw [hp]; rfl) (by rw [hp]; rfl), onSilent, hp]

/-! ## Where the loops of an operation start -/

theorem toPrime_eq_goto (left : Nat) (s : State) :
    toPrime left s = goto (if left = 0 then .initSel else .initPrime left) s := by
  unfold toPrime
  split <;> rfl

theorem toFill_eq_goto (left : Nat) (s : State) :
    toFill left s = goto (if left = 0 then .wrAck else .wrFill left) s := by
  unfold toFill
  split <;> rfl

/-- In a well-formed configuration a transfer has a payload (R42). -/
theorem startPayload_of_wf {x : Xfer} {s : State} (hc : s.cfg.wf = true) :
    startPayload x s = goto (.payload x) { s with idx := 0 } := by
  obtain ⟨_, hreg, hblk, _⟩ := wf_lengths hc
  refine if_pos ?_
  cases x <;> simp only [xferLen] <;> omega

/-- In a well-formed configuration a write has data (R40). -/
theorem startWrData_of_wf {s : State} (hc : s.cfg.wf = true) : startWrData s = goto .wrData { s with idx := 0 } := by
  obtain ⟨_, hreg, hblk, _⟩ := wf_lengths hc
  exact if_pos (show 0 < s.cfg.blockLen by omega)

/-! ## The capacity formula -/

theorem csdReadBlLen_toNat (b5 : Byte) : (csdReadBlLen b5).toNat = b5.toNat % 16 := by
  simp [csdReadBlLen]

/-- The twelve bits of `c_size` as a number (R70). -/
theorem csdCSize_toNat (b6 b7 b8 : Byte) :
    (csdCSize b6 b7 b8).toNat = b6.toNat % 4 * 1024 + b7.toNat * 4 + b8.toNat / 64 := by
  have h8 := b8.isLt
  rw [csdCSize, BitVec.toNat_append, ← Nat.shiftLeft_add_eq_or_of_lt (BitVec.isLt _), Nat.shiftLeft_eq,
    BitVec.toNat_append, ← Nat.shiftLeft_add_eq_or_of_lt b7.isLt, Nat.shiftLeft_eq]
  simp only [BitVec.extractLsb'_toNat, Nat.shiftRight_eq_div_pow]
  omega

/-- The three bits of `c_size_mult` as a number (R70). -/
theorem csdCSizeMult_toNat (b9 b10 : Byte) : (csdCSizeMult b9 b10).toNat = b9.toNat % 4 * 2 + b10.toNat / 128 := by
  have h10 := b10.isLt
  rw [csdCSizeMult, BitVec.toNat_append, ← Nat.shiftLeft_add_eq_or_of_lt (BitVec.isLt _), Nat.shiftLeft_eq]
  simp only [BitVec.extractLsb'_toNat, Nat.shiftRight_eq_div_pow]
  omega

/-- The greatest count is 2^27, so the 32 bits of the formula lose nothing (R141). -/
theorem capacityValue_of_le {len : BitVec 4} {size : BitVec 12} {mult : BitVec 3} (h : 7 ≤ mult.toNat + len.toNat) :
    ∃ n, capacityValue len size mult = some n ∧ n.toNat = (size.toNat + 1) * 2 ^ (mult.toNat + len.toNat - 7) ∧
      n.toNat ≤ 2 ^ 27 := by
  have hlen := len.isLt
  have hmult := mult.isLt
  have hsize := size.isLt
  have bound : (size.toNat + 1) * 2 ^ (mult.toNat + len.toNat - 7) ≤ 2 ^ 12 * 2 ^ 15 :=
    Nat.mul_le_mul hsize (Nat.pow_le_pow_right (by decide) (by omega))
  have value : ((size.setWidth 32 + 1#32) <<< (mult.toNat + len.toNat - 7)).toNat =
      (size.toNat + 1) * 2 ^ (mult.toNat + len.toNat - 7) := by
    have plain : (size.setWidth 32 + 1#32).toNat = size.toNat + 1 := by
      simp only [BitVec.toNat_add, BitVec.toNat_setWidth, BitVec.toNat_ofNat]
      omega
    rw [BitVec.toNat_shiftLeft, Nat.shiftLeft_eq, plain, Nat.mod_eq_of_lt (by omega)]
  exact ⟨_, if_neg (by omega), value, value ▸ bound⟩

end Sys2Proof.Machine
end

section
/-! PROOF. The encoding (spec/30_encoding.md): the decoder and the encoder undo each other, each call of CARDCMD emits
the frame of its row, and each frame and byte row has the effect its position gives it. -/

namespace Sys2Proof.Machine

/-! ## The decoder and the encoder -/

/-- Settles O1: the three formats, each by its own round trip. -/
theorem decodeOfEncode : Obligations.DecodeOfEncode := by
  intro c i hc hi
  cases h : encode c i with
  | hostReq w => exact congrArg Except.ok (decodeHostReq_of_encode h)
  | frame w => exact decodeFrame_of_encode hc hi h
  | byte b => exact decodeByte_of_encode hc hi h

/-- Settles O2: the three formats, each by its own round trip. -/
theorem encodeOfDecode : Obligations.EncodeOfDecode := by
  intro c ctx u i h
  cases u with
  | hostReq w =>
    cases h
    exact encode_decodeHostReq c w
  | frame w => exact ⟨encode_of_decodeFrame h, wellFormed_of_decodeFrame h⟩
  | byte b => exact encode_of_decodeByte h

/-- A block number shifted to a byte address is block aligned (R47, R76). -/
theorem alignedArg_blockAddr (c : Config) (n : Word) : alignedArg c (blockAddr c n) = true := by
  rw [alignedArg, blockAddr, beq_iff_eq, BitVec.shiftLeft_ushiftRight]
  ext k hk
  simpa [-BitVec.reduceAllOnes] using fun shifted _ => shifted

/-- Settles O5: each call's frame is the encoding of its row's instruction, so O1 reads it back. -/
theorem emittedFramesDecode : Obligations.EmittedFramesDecode := by
  intro c arg hc
  have aligned := alignedArg_blockAddr c arg
  have register : ∀ i, i.wellFormed c = true → encode c i = .frame (frameWord c (argCmd arg) 0#32) →
      decodeFrame c (callFrame c arg .readReg) = .ok i := fun i => decodeFrame_of_encode hc
  refine ⟨decodeOfEncode c .cmd0 hc rfl, decodeOfEncode c .cmd1 hc rfl, decodeOfEncode c .cmd55 hc rfl,
    decodeOfEncode c .acmd41 hc rfl, decodeOfEncode c .cmd9 hc rfl, decodeOfEncode c (.cmd17 _) hc aligned,
    decodeOfEncode c (.cmd24 _) hc aligned, fun h => ?_, fun h => ?_, fun h => ?_⟩
  · exact register .cmd9 rfl (by rw [h]; rfl)
  · exact register .cmd10 rfl (by rw [h]; rfl)
  · exact register (.cmdN _) (by simpa [Instr.wellFormed] using h) rfl

/-! ## The rows as the step runs them -/

/-- Settles O7: whatever the decoder reads has the effect of the sequencer's event there. -/
theorem stepIsTheSequencersEvent : Obligations.StepIsTheSequencersEvent :=
  ⟨fun _ hh => step_of_quiet hh, fun _ _ hh => step_of_pass hh⟩

/-- Settles O9: every row is a request, a frame or a byte, and every step a row, an event or a move of the host. -/
theorem nothingIsRefused : Obligations.NothingIsRefused :=
  fun s i r => ⟨exec_ne_refused i s r, step_ne_refused s r⟩

/-- Settles O38: a byte row changes the working registers, the position and the history only. -/
theorem byteRowsFrame : Obligations.ByteRowsFrame := by
  intro s t low d i hi h
  obtain ⟨b, hb⟩ : ∃ b, encode s.cfg i = .byte b := by
    simp only [List.mem_cons, List.not_mem_nil, or_false] at hi
    rcases hi with rfl | rfl | rfl | rfl | rfl | rfl | rfl <;> exact ⟨_, rfl⟩
  obtain ⟨_, _, _, _, _, _, _, rfl⟩ := exec_byte_workingOnly hb h
  refine ⟨rfl, rfl, rfl, rfl, rfl, rfl, rfl, rfl, rfl, rfl, rfl, rfl, rfl, rfl, fun m a => ?_⟩
  cases m <;> rfl

/-- Settles O43: the fields as numbers, then the formula on either side of a shift of 0. -/
theorem capacityFormula : Obligations.CapacityFormula := by
  intro b5 b6 b7 b8 b9 b10
  simp only [← csdReadBlLen_toNat, ← csdCSize_toNat, ← csdCSizeMult_toNat]
  exact ⟨fun h => if_pos h, capacityValue_of_le⟩

/-! ## Frames -/

/-- Settles O29: the sends of what is left of a frame, all of them or one while a move of the host waits. -/
theorem frameRowsTransmit : Obligations.FrameRowsTransmit := by
  have midFrame : ∀ (s : State) (call : Call) (left : List Byte), s.pos = .cmdSend call left →
      seqStep s = .next (sendFrame call left s) := fun s call left hp =>
    seqStep_of_framePart (by rw [framePart, hp])
  refine ⟨fun s call left hp hh => ?_, fun s call b left move rest hp hh => ?_, fun s call arg cmd hc hp => ?_⟩
  · rw [step_of_quiet hh, midFrame s call left hp, sendFrame_quiet left hh]
  · rw [step_of_pass hh, midFrame { s with host := move :: rest } call (b :: left) hp, sendFrame_waits (by simp)]
  · intro sent
    obtain ⟨_, _, _, hlen⟩ := wf_lengths hc
    have here : ∀ w, transmitHere w s = sent w := by
      intro w
      refine (transmitHere_of_cmdFrame hp).trans (congrArg Host.Outcome.next ?_)
      by_cases hh : s.host = []
      · rw [if_pos hh, transmit, sendFrame_quiet _ hh, frameEvents]
      · rw [if_neg hh, transmit, hlen]
        exact sendFrame_waits hh
    exact ⟨here _, here _, here _, here _, here _, here _, here _, here _, here _⟩

/-! ## Bytes -/

/-- Settles O30: the poll ends by its count or not at all, and the byte is neither of the two responses. -/
theorem notYetByteInPoll : Obligations.NotYetByteInPoll := by
  intro s call low hc hp
  obtain ⟨hidle, hready, _⟩ := wf_responses hc
  have hb : notYet (1#1 ++ low) = true := notYet_append low
  have differs : ∀ r, notYet r = false → (1#1 ++ low : Byte) ≠ r := by
    rintro _ hr rfl
    rw [hb] at hr
    cases hr
  show onByte (1#1 ++ low) s = _
  by_cases hlast : s.polls + 1 = s.cfg.cmdRespPolls
  · rw [onByte_pollEnds hp (by simp [pollEnds, hlast]), resume_of_other (differs _ hidle) (differs _ hready),
      if_pos hlast]
    rfl
  · rw [onByte_pollGoesOn hp (by simp [pollEnds, hb, hlast]), if_neg hlast, ← hp]
    rfl

/-- Settles O31: both values end the poll, and each caller compares the byte. -/
theorem readyAndIdleResponses : Obligations.ReadyAndIdleResponses := by
  intro s call hc hp
  obtain ⟨hidle, hready, hne⟩ := wf_responses hc
  constructor
  · exact (onByte_pollEnds hp (by simp [pollEnds, hready])).trans
      (congrArg Host.Outcome.next (resume_of_ready rfl hne))
  · exact (onByte_pollEnds hp (by simp [pollEnds, hidle])).trans
      (congrArg Host.Outcome.next (resume_of_idle rfl hne))

/-- Settles O33: received it ends the wait, sent it starts the write loop, and neither loop is empty. -/
theorem startTokenBothWays : Obligations.StartTokenBothWays := by
  intro s hc
  refine ⟨fun x hp => ?_, fun hp => ?_⟩
  · have received : exec .startToken s = onByte s.cfg.startToken s := if_neg (by simp [hp])
    have ends : onByte s.cfg.startToken s =
        .next (startPayload x (setTokOk true (log (.recv s.cfg.startToken) s))) := by
      simp only [onByte, hp, waitToken, waitDone, if_true]
    rw [received, ends, startPayload_of_wf (by exact hc)]
    rfl
  · have sent : exec .startToken s = .next (startWrData (tSend s.cfg.startToken s)) := by
      refine (if_pos hp).trans ?_
      simp only [onSilent, hp]
    rw [sent, startWrData_of_wf (by exact hc)]
    rfl

/-- Settles O34: the masked comparison decides, and the latch that follows a rejection records the whole byte. -/
theorem dataResponseDecidesTheWrite : Obligations.DataResponseDecidesTheWrite := by
  intro s b hp
  refine ⟨fun hb => ?_, fun rest hb hh hrx => ?_⟩
  · show onByte b s = _
    simp [onByte, hp, dataAccepted, hb, goto, log]
  · have response : step s = .next { s with
        ack := b, rx := rest, pos := .latch .dataRejected, hist := .recv b :: s.hist } := by
      rw [step_of_quiet hh, seqStep_of_byte (by rw [hp]; rfl), takeByte_cons hrx]
      simp [onByte, hp, dataAccepted, hb, goto, log]
    rw [run_succ Sys2Proof.core response]
    refine run_succ Sys2Proof.core ?_ 0
    exact (step_of_quiet (by exact hh)).trans (seqStep_of_latch (site := .dataRejected) (by rfl))

/-- Settles O35: one filler sent, one fewer to go. -/
theorem fillBytePrimesAndPads : Obligations.FillBytePrimesAndPads := by
  intro s n
  have due : sendsFill s.pos = true → exec .fillByte s = onSilent s := fun h => if_pos h
  refine ⟨fun hp => ?_, fun hp => ?_⟩
  · rw [due (by rw [hp]; rfl)]
    simp only [onSilent, hp, Nat.add_sub_cancel, toPrime_eq_goto]
    rfl
  · rw [due (by rw [hp]; rfl)]
    simp only [onSilent, hp, Nat.add_sub_cancel, toFill_eq_goto]
    rfl

/-- Settles O36: neither sent nor received, a row leaves the state as it is. -/
theorem rowsOutOfPlaceHaveNoEffect : Obligations.RowsOutOfPlaceHaveNoEffect := by
  intro s arg cmd low b
  refine ⟨fun hp i hi => ?_, fun hp i hi => ?_, fun hp ht => ?_, fun hp => ?_⟩
  · simp only [List.mem_cons, List.not_mem_nil, or_false] at hi
    rcases hi with rfl | rfl | rfl | rfl | rfl | rfl | rfl | rfl | rfl <;> exact transmitHere_elsewhere hp
  · simp only [List.mem_cons, List.not_mem_nil, or_false] at hi
    rcases hi with rfl | rfl | rfl | rfl | rfl <;> exact onByte_elsewhere hp
  · exact (if_neg ht).trans (onByte_elsewhere hp)
  · exact if_neg (ne_true_of_eq_false hp)

end Sys2Proof.Machine
end

section
/-! PROOF. The waits (spec/40_token_wait.md): what ends them, the time test of each, and the elapsed time across a
rollover of the tick. -/

namespace Sys2Proof.Machine

/-! ## The elapsed time -/

/-- A reduced tick and a reduced start lose only multiples of `2^TICK_W`, which the subtraction in `TICK_W` bits does not
see (R92). -/
theorem elapsed_of_reduced {c : Config} {start now : Nat} (hle : start ≤ now) (hlt : now - start < 2 ^ c.tickW) :
    elapsed c (now % 2 ^ c.tickW) (start % 2 ^ c.tickW) = now - start := by
  unfold elapsed
  generalize 2 ^ c.tickW = m at hlt ⊢
  have hr : start % m < m := Nat.mod_lt _ (by omega)
  have parts : m * (start / m) + start % m = start := Nat.div_add_mod start m
  have whole : now + (m - start % m) = now - start + m * (start / m + 1) := by
    rw [Nat.mul_add_one]
    omega
  calc (now % m + (m - start % m % m)) % m
      = (now + (m - start % m)) % m := by rw [Nat.mod_mod, Nat.mod_add_mod]
    _ = (now - start) % m := by rw [whole, Nat.add_mul_mod_self_left]
    _ = now - start := Nat.mod_eq_of_lt hlt

/-- The elapsed time has `TICK_W` bits, so a timeout of all of them is never passed (R203). -/
theorem not_expired_of_maximal {c : Config} {timeout : Nat} (h : 2 ^ c.tickW - 1 ≤ timeout) (now start : Nat) :
    expired c timeout now start = false := by
  have bound : elapsed c now start < 2 ^ c.tickW := Nat.mod_lt _ (Nat.two_pow_pos _)
  exact decide_eq_false (by omega)

/-! ## The events that read the tick -/

theorem awaitsByte_of_awaitsTick {p : Pos} (h : awaitsTick p = true) : awaitsByte p = false := by
  cases p <;> simp only [awaitsTick, Bool.false_eq_true] at h <;> rfl

/-- With no move pending, a queued tick answers an event that reads one. -/
theorem step_of_tick {s : State} {x : Nat} {rest : List Nat} (hh : s.host = []) (ht : awaitsTick s.pos = true)
    (hq : s.ticks = x :: rest) : step s = .next (onTick (x % 2 ^ s.cfg.tickW) { s with ticks := rest }) := by
  rw [step_of_quiet hh, seqStep, takeTick_cons hq]
  simp only [awaitsByte_of_awaitsTick ht, ht, Bool.false_eq_true, if_false, if_true]

/-- A time test that sends the operation on either way chooses the position only. -/
theorem ite_expired_goto (c : Config) (timeout now t0 : Nat) (p q : Pos) (s : State) :
    (if expired c timeout now t0 then goto p s else goto q s) =
      goto (if timeout < elapsed c now t0 then p else q) s := by
  simp only [expired, decide_eq_true_eq]
  exact (apply_ite (goto · s) _ _ _).symm

/-- The latch of a WAITTOKEN that fails (R91). -/
def waitLatch : Wait → LatchSite
  | .startToken x => .tokenTimeout x
  | .writeBusy => .busyTimeout

theorem waitDone_false (w : Wait) (s : State) : waitDone w false s = goto (.latch (waitLatch w)) (setTokOk false s) := by
  cases w <;> rfl

/-- WAITTOKEN's time test, past the timeout (R90, R92). -/
theorem onTick_tokTick_expired {n : Nat} {w : Wait} {s : State} (hp : s.pos = .tokTick w)
    (h : waitTimeout s.cfg w < elapsed s.cfg n s.t0) :
    onTick n s = goto (.latch (waitLatch w)) (setTokOk false (log (.tick n) s)) := by
  simp only [onTick, hp, expired, h, decide_true, if_true, waitDone_false]

/-- WAITTOKEN's time test, not past the timeout (R90, R92). -/
theorem onTick_tokTick_waits {n : Nat} {w : Wait} {s : State} (hp : s.pos = .tokTick w)
    (h : elapsed s.cfg n s.t0 ≤ waitTimeout s.cfg w) : onTick n s = goto (.tokRecv w) (log (.tick n) s) := by
  simp only [onTick, hp, expired, Nat.not_lt.2 h, decide_false, Bool.false_eq_true, if_false]

/-! ## The statements -/

/-- Settles O32: the idle byte is the byte that both positions compare with. -/
theorem idleByteEndsTheWaits : Obligations.IdleByteEndsTheWaits := by
  intro s
  have received : exec .idleByte s = onByte s.cfg.idleByte s := rfl
  refine ⟨fun call hp => ?_, fun hp => ?_⟩
  · rw [received]
    simp only [onByte, hp, if_true]
    rfl
  · rw [received]
    simp only [onByte, hp, waitToken, waitDone, if_true]
    rfl

/-- Settles O40: the true time is below `2^TICK_W`, so reducing both ticks loses nothing of their difference. -/
theorem elapsedSurvivesRollover : Obligations.ElapsedSurvivesRollover :=
  fun _ _ _ => elapsed_of_reduced

/-- Settles O41: each position's event is its tick read and the test after it, on either side of the timeout. -/
theorem timedWaitTest : Obligations.TimedWaitTest := by
  refine ⟨fun s w x rest hh hp hq => ?_, fun s x rest hh hq => ?_, fun c timeout now start h =>
    not_expired_of_maximal h now start⟩
  · refine ⟨_, step_of_tick hh (by rw [hp]; rfl) hq, fun late => ?_, fun inTime => ?_⟩
    · rw [onTick_tokTick_expired (by exact hp) (by exact late)]
      refine ⟨rfl, ?_⟩
      cases w <;> rfl
    · rw [onTick_tokTick_waits (by exact hp) (by exact inTime)]
      rfl
  · refine ⟨fun hp => ?_, fun hp hs => ?_, fun hp hs => ?_⟩ <;>
      rw [step_of_tick hh (by rw [hp]; rfl) hq]
    · simp only [onTick, hp, ite_expired_goto]
      rfl
    all_goals
      simp only [onTick, hp, startReady, log, hs, ite_expired_goto]
      rfl

end Sys2Proof.Machine
end

section
/-! PROOF. The command framer (spec/41_command_framer.md): the bus-idle wait without a timeout, and `initialize`, whose
commands it sends, giving up in its second phase. -/

namespace Sys2Proof.Machine

/-! ## A request by the run of its operation -/

/-- Every event of a run lowers the budget, so the budget bounds the run. -/
theorem Runs.le_budget {n : Nat} {s t : State} (h : Runs n s t) (hh : s.host = []) : n ≤ budget s := by
  induction h with
  | refl s => exact Nat.zero_le _
  | event hs he _ ih =>
    obtain ⟨_, _, _, hhost⟩ := seqStep_same he
    have lower := seqStep_budget hh hs he
    have rest := ih (hhost.trans hh)
    omega

/-- A request accepted while idle answers with the state at which a run of its operation has completed (R24, R130). -/
theorem request_of_completes {op : BitVec 3} {arg : Word} {s t : State}
    (hop : op ∈ [1#3, 2#3, 3#3, 4#3, 5#3]) (hb : s.busy = false) (hh : s.host = [])
    (h : ∃ n, Runs n (beginOperation (accept op arg s)) t) (ht : t.pos = .idle) : request op arg s = .next t := by
  obtain ⟨n, run⟩ := h
  obtain ⟨_, _, bound, begins⟩ := beginOperation_facts hop arg s
  have quiet : (beginOperation (accept op arg s)).host = [] := (congrArg State.host (begins s.host)).trans hh
  exact request_of_runs hb hh run (by simp [settled, ht]) ((run.le_budget quiet).trans bound)

/-! ## The phases of `initialize` -/

/-- `initialize` from its start tick through phase 1: the idle response, after attempts in time, leads to the ready
handshake of the strategy built in (R131, R132). -/
theorem runs_resetPhase {s t : State} {t0 : Nat} {tries : List (Exchange × Nat)} {e : Exchange} {rest : List Byte}
    {restT : List Nat} (hp : s.pos = .initTick) (hh : s.host = []) (hr : Retries s.cfg s.cfg.r1Idle t0 tries)
    (ha : AnswersCmd s.cfg e) (hidle : e.r = s.cfg.r1Idle)
    (hrx : s.rx = triesAnswers s.cfg tries ++ (cmdAnswers s.cfg e ++ rest))
    (hq : s.ticks = t0 :: (tries.map Prod.snd ++ restT))
    (h : ∃ n, Runs n (startReady { s with
      t0 := t0 % 2 ^ s.cfg.tickW, clockSlow := true, cs := true, pos := .cmdPoll .reset, r1 := e.r,
      polls := e.polls.length + 1, rx := rest, ticks := restT,
      hist := (initEvents s.cfg t0 ++ (triesEvents s.cfg (frameWord s.cfg s.cfg.cmdReset 0#32) tries ++
        cmdEvents s.cfg (frameWord s.cfg s.cfg.cmdReset 0#32) e)).reverse ++ s.hist }) t) :
    ∃ n, Runs n s t := by
  obtain ⟨n, ready⟩ := h
  refine ⟨_, runs_initStart hp hq rfl (runs_resetTries rfl hh rfl hr hrx rfl fun _ _ _ =>
    runs_cmd (n := n) rfl hh ha rfl ?_)⟩
  simpa only [resume, hidle, if_true, callFrame, callCmd, callArg, List.reverse_append, List.append_assoc] using ready

/-- The time test of phase 2 past the timeout: the latch takes the last response under the strategy's error (R133,
R161). -/
theorem runs_readyTick_expired {s : State} {x : Nat} {restT : List Nat} (hp : s.pos = .initReadyTick)
    (hq : s.ticks = x :: restT) (hx : expired s.cfg s.cfg.initTimeoutMs (x % 2 ^ s.cfg.tickW) s.t0 = true) :
    Runs 2 s { s with
      errorCode := errorNumber (siteError s.cfg .readyFailed), errorData := s.r1, cs := false, ok := false,
      busy := false, pos := .idle, ticks := restT, hist := .desel :: .tick (x % 2 ^ s.cfg.tickW) :: s.hist } := by
  have late : onTick (x % 2 ^ s.cfg.tickW) { s with ticks := restT } =
      goto (.latch .readyFailed) (log (.tick (x % 2 ^ s.cfg.tickW)) { s with ticks := restT }) := by
    simp only [onTick, hp, hx, if_true]
  refine .tick (by rw [hp]; rfl) hq ?_
  rw [late]
  exact .silent (by simp) rfl rfl rfl (.refl _)

/-- A response other than ready to the command that decides an attempt of phase 2 leads to the time test (R133). -/
theorem resume_of_notReady {call : Call} {s : State} (hcall : call = .legacyInit ∨ call = .appInit)
    (hother : s.r1 ≠ s.cfg.r1Ready) : resume call s = goto .initReadyTick s := by
  obtain rfl | rfl := hcall <;> exact if_neg hother

/-- The last attempt of phase 2, at the command that decides it: another response than ready, and the time test past the
timeout (R133). -/
theorem runs_readyCmd_expired {call : Call} {s t : State} {e : Exchange} {x : Nat} {rest : List Byte} {restT : List Nat}
    (hcall : call = .legacyInit ∨ call = .appInit) (hp : s.pos = .cmdSel call) (hh : s.host = [])
    (ha : AnswersCmd s.cfg e) (hother : e.r ≠ s.cfg.r1Ready)
    (hx : expired s.cfg s.cfg.initTimeoutMs (x % 2 ^ s.cfg.tickW) s.t0 = true)
    (hrx : s.rx = cmdAnswers s.cfg e ++ rest) (hq : s.ticks = x :: restT)
    (ht : t = { s with
      errorCode := errorNumber (siteError s.cfg .readyFailed), errorData := e.r, cs := false, ok := false,
      busy := false, r1 := e.r, polls := e.polls.length + 1, pos := .idle, rx := rest, ticks := restT,
      hist := (cmdEvents s.cfg (callFrame s.cfg s.argReg call) e ++
        [Event.tick (x % 2 ^ s.cfg.tickW), Event.desel]).reverse ++ s.hist }) :
    Runs (2 + e.wait.length + e.polls.length + 4) s t := by
  subst ht
  refine runs_cmd hp hh ha hrx ?_
  rw [resume_of_notReady hcall hother, List.reverse_append]
  exact runs_readyTick_expired rfl hq hx

theorem startReady_of_legacy {s : State} (h : s.cfg.initStrategy = .legacy) :
    startReady s = goto (.cmdSel .legacyInit) s := by
  simp only [startReady, h]

theorem startReady_of_acmd {s : State} (h : s.cfg.initStrategy = .acmd) :
    startReady s = goto (.cmdSel .appPrefix) s := by
  simp only [startReady, h]

/-! ## The statements -/

/-- Settles O39, by induction on the queued bytes: a byte that is not the idle byte leaves the wait where it is. -/
theorem busIdleWaitIsUnbounded : Obligations.BusIdleWaitIsUnbounded := by
  intro s call hh hp hrx
  generalize hbs : s.rx = bs at hrx
  induction bs generalizing s with
  | nil =>
    show Host.Outcome.next s = .next { s with rx := [] }
    rw [← hbs]
  | cons b bs ih =>
    have waits : step s = .next (log (.recv b) { s with rx := bs }) := by
      rw [step_of_quiet hh, seqStep_of_byte (by rw [hp]; rfl), takeByte_cons hbs]
      simp only [onByte, hp, hrx b (by simp), if_false]
    refine (run_succ Sys2Proof.core waits bs.length).trans ?_
    rw [ih (log (.recv b) { s with rx := bs }) hh hp rfl fun c hc => hrx c (by simp [hc])]
    simp [log]

/-- Settles O49: phase 1, then the strategy's attempts in time and one past the timeout; under ACMD each is a pair,
whose prefix decides nothing. -/
theorem initializeReadyTimeout : Obligations.InitializeReadyTimeout := by
  constructor
  · intro s arg t x tries0 tries1 e0 e1 rest restT hb hh hs hr0 ha0 hidle hr1 ha1 hother hx hrx hq w0 w1
    refine request_of_completes (by simp) hb hh (runs_resetPhase rfl hh hr0 ha0 hidle hrx hq ?_) rfl
    rw [startReady_of_legacy (by exact hs)]
    refine ⟨_, runs_readyTries hs rfl hh rfl hr1 rfl rfl fun _ _ _ =>
      runs_readyCmd_expired (.inl rfl) rfl hh ha1 hother hx rfl rfl ?_⟩
    simp [siteError, hs, callFrame, callCmd, callArg, beginOperation, beginInitialize, w0, w1]
  · intro s arg t x tries0 tries1 e0 p1 e1 rest restT hb hh hs hr0 ha0 hidle hr1 hb1 ha1 hother hx hrx hq w0 w w1
    refine request_of_completes (by simp) hb hh (runs_resetPhase rfl hh hr0 ha0 hidle hrx hq ?_) rfl
    rw [startReady_of_acmd (by exact hs)]
    refine ⟨_, runs_pairTries hs rfl hh rfl hr1 rfl rfl fun _ _ _ => runs_cmd rfl hh hb1 rfl
      (runs_readyCmd_expired (.inr rfl) rfl hh ha1 hother hx rfl rfl ?_)⟩
    simp [siteError, hs, callFrame, callCmd, callArg, beginOperation, beginInitialize, resume, w0, w, w1]

end Sys2Proof.Machine
end

section
/-! PROOF. The data transfers (spec/42_data_transfer.md): a payload byte is stored like any other, and what a read does
with its answers: rejected, streamed after the start token, or timed out under both values of `RD_TIMEOUT_ABORT`. -/

namespace Sys2Proof.Machine

/-! ## One payload byte -/

/-- A store writes one cell of one memory. -/
theorem readCell_memOf_setMem (d m : Dest) (i a : Nat) (b : Byte) (s : State) :
    readCell (memOf (setMem d (writeCell (memOf s d) i b) s) m) a =
      if m = d ∧ a = i then some b else readCell (memOf s m) a := by
  by_cases hm : m = d
  · subst hm
    cases m <;> simp [readCell_writeCell]
  · cases d <;> cases m <;> simp at hm ⊢

/-- The test of the streaming loop chooses the position only (R120). -/
theorem toPayload_eq_goto (x : Xfer) (s : State) : ∃ p, toPayload x s = goto p s := by
  unfold toPayload toTrailer
  split_ifs <;> exact ⟨_, rfl⟩

/-- At a payload position every received byte is kept for the store, whatever it is (R124). -/
theorem onByte_payload {x : Xfer} {b : Byte} {s : State} (hp : s.pos = .payload x) :
    onByte b s = .next { s with pos := .store x b, hist := .recv b :: s.hist } := by
  simp only [onByte, hp, goto, log]

/-- The store of a byte, in range: the byte goes to the cell at `idx` of the destination (R120). -/
theorem seqStep_store {x : Xfer} {b : Byte} {s : State} (hp : s.pos = .store x b)
    (hi : s.idx < destSize s.cfg (xferDest x)) :
    ∃ p, seqStep s = .next { setMem (xferDest x) (writeCell (memOf s (xferDest x)) s.idx b) s with
      pos := p, idx := s.idx + 1, hist := .memWrite (xferDest x) s.idx b :: s.hist } := by
  obtain ⟨p, looped⟩ := toPayload_eq_goto x
    { log (.memWrite (xferDest x) s.idx b) (setMem (xferDest x) (writeCell (memOf s (xferDest x)) s.idx b) s) with
      idx := s.idx + 1 }
  refine ⟨p, ?_⟩
  rw [seqStep_of_silent (by rw [hp]; rfl) (by rw [hp]; rfl)]
  simp only [onSilent, hp, storeByte, hi, if_true, looped]
  simp [goto, log]

/-- Settles O37: the receive keeps the byte, the next event writes it to the one cell at `idx`. -/
theorem payloadBytesAreStored : Obligations.PayloadBytesAreStored := by
  intro s x low d hc hp hlt i hi
  have token : exec .startToken s = onByte s.cfg.startToken s := if_neg (by simp [hp])
  obtain ⟨b, hb, received⟩ : ∃ b, encode s.cfg i = .byte b ∧ exec i s = onByte b s := by
    simp only [List.mem_cons, List.not_mem_nil, or_false] at hi
    rcases hi with rfl | rfl | rfl | rfl | rfl | rfl
    exacts [⟨_, rfl, rfl⟩, ⟨_, rfl, rfl⟩, ⟨_, rfl, rfl⟩, ⟨_, rfl, rfl⟩, ⟨_, rfl, token⟩, ⟨_, rfl, rfl⟩]
  obtain ⟨_, hsize⟩ := xferLen_bounds hc x
  obtain ⟨p, stored⟩ := seqStep_store (s := { s with pos := .store x b, hist := .recv b :: s.hist }) rfl
    (hlt.trans_le hsize)
  refine ⟨b, _, hb, received.trans (onByte_payload hp), stored, rfl, rfl, fun m a => ?_⟩
  have cells := readCell_memOf_setMem (xferDest x) m s.idx a b { s with pos := .store x b, hist := .recv b :: s.hist }
  cases m <;> exact cells

/-! ## The command of a read -/

/-- The call of CARDCMD before a transfer (R115, R148). -/
def readCall : Xfer → Call
  | .capacity => .readCsd
  | .register => .readReg
  | .block => .readBlk

/-- The index of `readRegister` is the low six bits of the argument (R145). -/
theorem callFrame_readReg (c : Config) (cmd : CmdIndex) (top : BitVec 26) :
    callFrame c (top ++ cmd) .readReg = frameWord c cmd 0#32 := by
  have low : argCmd (top ++ cmd) = cmd := BitVec.extractLsb'_append_eq_right
  rw [callFrame, callCmd, low]
  rfl

/-- A read from `s` whose command has been answered by `e`, its frame being `w`. -/
def responded (x : Xfer) (arg : Word) (w : FrameWord) (e : Exchange) (rest : List Byte) (s : State) : State :=
  { s with
    opReg := posOp.xferOp x, argReg := arg, busy := true, cs := true, pos := .cmdPoll (readCall x), r1 := e.r,
    polls := e.polls.length + 1, rx := rest, hist := (cmdEvents s.cfg w e).reverse ++ s.hist }

section
variable {x : Xfer} {arg : Word} {w : FrameWord} {s t : State} {e : Exchange} {rest : List Byte}

/-- The ready response to a read's command leads to its transfer (R115, R148). -/
theorem resume_readCall_of_ready (hr : s.r1 = s.cfg.r1Ready) :
    resume (readCall x) s = goto (.tokStart (.startToken x)) s := by
  cases x <;> exact if_pos hr

/-- A read presented while idle, by its run from the response to its command on (R24, R100). -/
theorem request_of_responded (hw : callFrame s.cfg arg (readCall x) = w) (hb : s.busy = false) (hh : s.host = [])
    (ha : AnswersCmd s.cfg e) (hrx : s.rx = cmdAnswers s.cfg e ++ rest)
    (h : ∃ n, Runs n (resume (readCall x) (responded x arg w e rest s)) t) (ht : t.pos = .idle) :
    request (posOp.xferOp x) arg s = .next t := by
  subst hw
  obtain ⟨n, run⟩ := h
  have begun : beginOperation (accept (posOp.xferOp x) arg s) =
      goto (.cmdSel (readCall x)) (accept (posOp.xferOp x) arg s) := by
    cases x <;> rfl
  have command := runs_cmd (s := goto (.cmdSel (readCall x)) (accept (posOp.xferOp x) arg s)) rfl hh ha hrx run
  rw [← begun] at command
  exact request_of_completes (by cases x <;> simp [posOp.xferOp]) hb hh ⟨_, command⟩ ht

/-- REGREAD of a rejected command: deselect, and the caller fails (R115, R116). -/
theorem request_register_rejected (hx : x ≠ .block) (hw : callFrame s.cfg arg (readCall x) = w) (hb : s.busy = false)
    (hh : s.host = []) (ha : AnswersCmd s.cfg e) (hne : e.r ≠ s.cfg.r1Ready) (hrx : s.rx = cmdAnswers s.cfg e ++ rest) :
    request (posOp.xferOp x) arg s = .next (xferFailed x (tDesel (responded x arg w e rest s))) := by
  have rejected : resume (readCall x) (responded x arg w e rest s) =
      goto (.regDesel x) (responded x arg w e rest s) := by
    cases x
    case block => exact absurd rfl hx
    all_goals exact if_neg hne
  refine request_of_responded hw hb hh ha hrx ⟨1, ?_⟩ (by cases x <;> rfl)
  rw [rejected]
  refine .silent (by simp) rfl rfl (s' := xferFailed x (tDesel (responded x arg w e rest s))) ?_ (.refl _)
  cases x <;> rfl

end

/-- Settles O51: REGREAD's rejection, by the caller that reports a count of 0. -/
theorem capacityRejected : Obligations.CapacityRejected := by
  intro s arg e rest hb hh ha hne hrx
  refine (request_register_rejected (x := .capacity) (by simp) rfl hb hh ha hne hrx).trans ?_
  rw [List.reverse_append]
  rfl

/-- Settles O53: REGREAD's rejection, by the caller that reports nothing else. -/
theorem readRegisterRejected : Obligations.ReadRegisterRejected := by
  intro s cmd top e rest hb hh ha hne hrx
  have hw := callFrame_readReg s.cfg cmd top
  refine (request_register_rejected (x := .register) (by simp) hw hb hh ha hne hrx).trans ?_
  rw [List.reverse_append]
  rfl

/-! ## The streaming of a payload -/

/-- The events of a transfer's streaming, oldest first: the payload, the trailer, the deselect (R120). -/
def streamEvents (d : Dest) (payload trailer : List Byte) : List Event :=
  payloadEvents d 0 payload ++ (trailer.map .recv ++ [.desel])

/-- A payload written from cell 0 up reads back (R45). -/
theorem readCell_fillFrom_zero {m : Memory} {bs : List Byte} {a : Nat} (h : a < bs.length) :
    readCell (fillFrom m 0 bs) a = some (bs.getD a 0#8) := by
  rw [payloadInOrder, if_pos (by omega)]
  simp [h]

section
variable {x : Xfer} {payload trailer rest : List Byte} {s t : State}

/-- The streaming of a transfer, from its start to its caller's success (R120). -/
theorem runs_startPayload {n : Nat} (hsize : xferLen s.cfg x ≤ destSize s.cfg (xferDest x))
    (hpl : payload.length = xferLen s.cfg x) (htl : trailer.length = s.cfg.trailerLen)
    (hrx : s.rx = payload ++ (trailer ++ rest))
    (h : Runs n (xferSucceeded x { (setMem (xferDest x) (fillFrom (memOf s (xferDest x)) 0 payload) s) with
      idx := xferLen s.cfg x, cs := false, pos := .xferDesel x, rx := rest,
      hist := (streamEvents (xferDest x) payload trailer).reverse ++ s.hist }) t) :
    ∃ n, Runs n (startPayload x s) t := by
  refine ⟨_, runs_payload (rest := trailer ++ rest) (n := n + 1 + trailer.length) hsize (by simpa using hpl) hrx ?_⟩
  simp only [← htl]
  refine runs_trailer (rest := rest) rfl (.silent (by simp) rfl rfl rfl ?_)
  cases hd : xferDest x <;> simpa [hd, streamEvents, tDesel, log, setMem, memOf] using h

/-- Streaming into `BUF` completes with the payload there (R115, R120). -/
theorem runs_startPayload_buf (hx : xferDest x = .buf) (hsize : xferLen s.cfg x ≤ s.cfg.blockLen)
    (hpl : payload.length = xferLen s.cfg x) (htl : trailer.length = s.cfg.trailerLen)
    (hrx : s.rx = payload ++ (trailer ++ rest)) :
    ∃ n, Runs n (startPayload x s) { s with
      buf := fillFrom s.buf 0 payload, cs := false, ok := true, busy := false, idx := xferLen s.cfg x, pos := .idle,
      rx := rest, hist := (streamEvents .buf payload trailer).reverse ++ s.hist } := by
  refine runs_startPayload (n := 0) (by rw [hx]; exact hsize) hpl htl hrx ?_
  cases x
  case capacity => cases hx
  all_goals exact .refl _

/-- Streaming into `CSDR` goes on with the capacity formula over the payload (R140 to R142). -/
theorem runs_startPayload_csdr (hc : s.cfg.wf = true) (hpl : payload.length = s.cfg.regLen)
    (htl : trailer.length = s.cfg.trailerLen) (hrx : s.rx = payload ++ (trailer ++ rest)) :
    ∃ m free, (∀ v, csdCapacity payload = some v → m = v ∧ free = s.freeCount) ∧
      ∃ n, Runs n (startPayload .capacity s) { s with
        capacityOut := m, freeCount := free, csdr := fillFrom s.csdr 0 payload, cs := false, ok := true, busy := false,
        idx := s.cfg.regLen, pos := .idle, rx := rest,
        hist := (streamEvents .csdr payload trailer ++ csdReads payload).reverse ++ s.hist } := by
  obtain ⟨_, hreg, _⟩ := wf_lengths hc
  obtain ⟨m, free, hv, run⟩ := runs_capacity (bs := payload)
    (s := { s with
      csdr := fillFrom s.csdr 0 payload, idx := s.cfg.regLen, cs := false, pos := .capCompute [], rx := rest,
      hist := (streamEvents .csdr payload trailer).reverse ++ s.hist }) rfl hreg
    fun i _ hi => readCell_fillFrom_zero (by omega)
  refine ⟨m, free, hv, runs_startPayload (x := .capacity) (n := 6) (le_refl s.cfg.regLen) hpl htl hrx ?_⟩
  rw [List.reverse_append, List.append_assoc]
  exact run

end

/-! ## A start token in time -/

/-- A read into `BUF` whose command is accepted and whose token comes in time (R115, R120, R148). -/
theorem request_read_succeeds {x : Xfer} {arg : Word} {w : FrameWord} {s : State} {e : Exchange} {t0 : Nat}
    {misses : List (Byte × Nat)} {payload trailer rest : List Byte} {restT : List Nat} (hx : xferDest x = .buf)
    (hsize : xferLen s.cfg x ≤ s.cfg.blockLen) (hw : callFrame s.cfg arg (readCall x) = w) (hb : s.busy = false)
    (hh : s.host = []) (ha : AnswersCmd s.cfg e) (hr : e.r = s.cfg.r1Ready)
    (hm : Misses s.cfg s.cfg.startToken s.cfg.readTimeoutMs t0 misses) (hpl : payload.length = xferLen s.cfg x)
    (htl : trailer.length = s.cfg.trailerLen)
    (hrx : s.rx = cmdAnswers s.cfg e ++ (tokenAnswers s.cfg.startToken misses ++ (payload ++ (trailer ++ rest))))
    (hq : s.ticks = t0 :: (misses.map Prod.snd ++ restT)) :
    request (posOp.xferOp x) arg s = .next { s with
      buf := fillFrom s.buf 0 payload, cs := false, ok := true, busy := false, opReg := posOp.xferOp x, argReg := arg,
      r1 := e.r, polls := e.polls.length + 1, t0 := t0 % 2 ^ s.cfg.tickW, tokOk := true, idx := xferLen s.cfg x,
      pos := .idle, rx := rest, ticks := restT,
      hist := (cmdEvents s.cfg w e ++ xferEvents s.cfg .buf t0 misses payload trailer).reverse ++ s.hist } := by
  refine request_of_responded hw hb hh ha hrx ?_ rfl
  rw [resume_readCall_of_ready (by exact hr)]
  refine ⟨_, runs_xfer (n := 0) rfl (by rw [hx]; exact hsize) hm hpl htl rfl hq ?_⟩
  rw [hx, List.reverse_append, List.append_assoc]
  cases x
  case capacity => cases hx
  all_goals exact .refl _

/-- Settles O52: the read into `BUF` with the length of a register. -/
theorem readRegisterSucceeds : Obligations.ReadRegisterSucceeds := by
  intro s cmd top e t misses payload trailer rest restT hb hh hc ha hr hm hpl htl hrx hq
  obtain ⟨hsize, _⟩ := xferLen_bounds hc .register
  exact request_read_succeeds (x := .register) rfl hsize (callFrame_readReg s.cfg cmd top) hb hh ha hr hm hpl htl hrx hq

/-- Settles O54: the read into `BUF` with the length of a block. -/
theorem readBlockSucceeds : Obligations.ReadBlockSucceeds := by
  intro s n e t misses payload trailer rest restT hb hh ha hr hm hpl htl hrx hq
  exact request_read_succeeds (x := .block) rfl (le_refl s.cfg.blockLen) rfl hb hh ha hr hm hpl htl hrx hq

/-! ## A start token that does not come -/

/-- The events of a read whose token wait runs out, oldest first: up to the latch's deselect (R90, R163). -/
def timeoutEvents (c : Config) (w : FrameWord) (e : Exchange) (t0 : Nat) (misses : List (Byte × Nat)) (b : Byte)
    (late : Nat) : List Event :=
  cmdEvents c w e ++ (waitEvents c t0 misses ++ [.recv b, .tick (late % 2 ^ c.tickW), .desel])

/-- A read from `s` at the latch of its token wait (R122, R161). -/
def timedOut (x : Xfer) (arg : Word) (e : Exchange) (t0 : Nat) (events : List Event) (rest : List Byte)
    (restT : List Nat) (s : State) : State :=
  { s with
    errorCode := errorNumber .readStartTokenTimeout, errorData := 0#8, opReg := posOp.xferOp x, argReg := arg,
    busy := true, cs := false, pos := .latch (.tokenTimeout x), r1 := e.r, polls := e.polls.length + 1,
    t0 := t0 % 2 ^ s.cfg.tickW, tokOk := false, rx := rest, ticks := restT, hist := events.reverse ++ s.hist }

section
variable {x : Xfer} {arg : Word} {w : FrameWord} {s t : State} {e : Exchange} {t0 late : Nat}
  {misses : List (Byte × Nat)} {b : Byte} {rest : List Byte} {restT : List Nat}
  (hb : s.busy = false) (hh : s.host = []) (ha : AnswersCmd s.cfg e) (hr : e.r = s.cfg.r1Ready)
  (hm : Misses s.cfg s.cfg.startToken s.cfg.readTimeoutMs t0 misses) (hne : b ≠ s.cfg.startToken)
  (hx : expired s.cfg s.cfg.readTimeoutMs (late % 2 ^ s.cfg.tickW) (t0 % 2 ^ s.cfg.tickW) = true)
  (hq : s.ticks = t0 :: (misses.map Prod.snd ++ late :: restT)) (hw : callFrame s.cfg arg (readCall x) = w)
  (hrx : s.rx = cmdAnswers s.cfg e ++ (misses.map Prod.fst ++ b :: rest))
include hb hh ha hr hm hne hx hq hw hrx

/-- A read whose command is accepted and whose token wait runs out, by its run after the latch (R90, R122). -/
theorem request_of_timedOut
    (h : ∃ n, Runs n (afterLatch (.tokenTimeout x)
      (timedOut x arg e t0 (timeoutEvents s.cfg w e t0 misses b late) rest restT s)) t) (ht : t.pos = .idle) :
    request (posOp.xferOp x) arg s = .next t := by
  obtain ⟨n, run⟩ := h
  refine request_of_responded hw hb hh ha hrx ?_ ht
  rw [resume_readCall_of_ready (by exact hr)]
  refine ⟨_, runs_waitTimeout (n := n + 1) (rest := rest) rfl hm hne hx rfl hq
    (.silent (by simp [waitDone]) rfl rfl rfl ?_)⟩
  simpa [timedOut, timeoutEvents, latchAt, raiseLatch, tDesel, log, waitDone, responded, setTokOk, goto, siteError,
    siteData] using run

/-- A token timeout that aborts: the caller fails at once, nothing more received (R121). -/
theorem request_read_aborts (habort : s.cfg.rdTimeoutAbort = true) :
    request (posOp.xferOp x) arg s =
      .next (xferFailed x (timedOut x arg e t0 (timeoutEvents s.cfg w e t0 misses b late) rest restT s)) := by
  refine request_of_timedOut hb hh ha hr hm hne hx hq hw hrx ⟨0, ?_⟩ (by cases x <;> rfl)
  rw [afterLatch, if_pos (by exact habort)]
  exact .refl _

/-- A token timeout that does not abort: the transfer streams from its start, deselected (R121, R207). -/
theorem request_read_streams (habort : s.cfg.rdTimeoutAbort = false)
    (h : ∃ n, Runs n (startPayload x
      (timedOut x arg e t0 (timeoutEvents s.cfg w e t0 misses b late) rest restT s)) t) (ht : t.pos = .idle) :
    request (posOp.xferOp x) arg s = .next t := by
  refine request_of_timedOut hb hh ha hr hm hne hx hq hw hrx ?_ ht
  rwa [afterLatch, if_neg (by exact ne_true_of_eq_false habort)]

end

/-- Settles O56: one timed-out wait for the three reads, then what `RD_TIMEOUT_ABORT` makes of each. -/
theorem startTokenTimeout : Obligations.StartTokenTimeout := by
  intro s n arg cmd top e t late misses b rest restT hb hh ha hr hm hne hx hq latched events block register csd
  have hreg := callFrame_readReg s.cfg cmd top
  constructor
  · intro habort hrx
    exact ⟨request_read_aborts (x := .block) hb hh ha hr hm hne hx hq rfl hrx habort,
      request_read_aborts (x := .register) hb hh ha hr hm hne hx hq hreg hrx habort,
      request_read_aborts (x := .capacity) hb hh ha hr hm hne hx hq rfl hrx habort⟩
  · intro payload trailer habort htl hrx streamed
    refine ⟨fun hpl => ?_, fun hc hpl => ?_, fun hc hpl => ?_⟩
    · rw [List.reverse_append, List.append_assoc]
      exact request_read_streams (x := .block) hb hh ha hr hm hne hx hq rfl hrx habort
        (runs_startPayload_buf rfl (le_refl s.cfg.blockLen) hpl htl rfl) rfl
    · obtain ⟨hsize, _⟩ := xferLen_bounds hc .register
      rw [List.reverse_append, List.append_assoc]
      exact request_read_streams (x := .register) hb hh ha hr hm hne hx hq hreg hrx habort
        (runs_startPayload_buf rfl hsize hpl htl rfl) rfl
    · obtain ⟨m, free, hv, run⟩ := runs_startPayload_csdr (trailer := trailer) (rest := rest)
        (s := timedOut .capacity arg e t (timeoutEvents s.cfg csd e t misses b late) (payload ++ (trailer ++ rest))
          restT s) hc hpl htl rfl
      refine ⟨m, free, hv, ?_⟩
      rw [List.reverse_append, List.append_assoc]
      exact request_read_streams (x := .capacity) hb hh ha hr hm hne hx hq rfl hrx habort run rfl

end Sys2Proof.Machine
end

section
/-! PROOF. The block API (spec/43_block_api.md): `initialize` ready under both strategies or given up in its first
phase, `capacity`, and what a block command's response, a write's data and its busy wait lead to. -/

namespace Sys2Proof.Machine

/-! ## The latch that ends an operation -/

/-- A latch after which the operation returns false: error, data and deselect, then completion (R161, R163). -/
theorem runs_latch_fails {site : LatchSite} {s : State} (hp : s.pos = .latch site)
    (hend : afterLatch site = complete false) :
    Runs 1 s (complete false (raiseLatch (siteError s.cfg site) (siteData s site) s)) := by
  have latched := seqStep_of_latch hp
  rw [latchAt, hend] at latched
  exact .event (by simp [settled, starved, hp, awaitsByte, awaitsTick]) latched (.refl _)

/-! ## `initialize` -/

/-- The ready response to the command that decides an attempt of phase 2 leads to the last deselect (R133, R135). -/
theorem resume_of_decidingReady {call : Call} {s : State} (hcall : call = .legacyInit ∨ call = .appInit)
    (hready : s.r1 = s.cfg.r1Ready) : resume call s = goto .initDone s := by
  obtain rfl | rfl := hcall <;> exact if_pos hready

/-- The last attempt of phase 2, at the command that decides it: the ready response, and `initialize` returns true
(R133, R135). -/
theorem runs_readyCmd_succeeds {call : Call} {s t : State} {e : Exchange} {rest : List Byte}
    (hcall : call = .legacyInit ∨ call = .appInit) (hp : s.pos = .cmdSel call) (hh : s.host = [])
    (ha : AnswersCmd s.cfg e) (hready : e.r = s.cfg.r1Ready) (hrx : s.rx = cmdAnswers s.cfg e ++ rest)
    (ht : t = { s with
      cs := false, ok := true, busy := false, r1 := e.r, polls := e.polls.length + 1, pos := .idle, rx := rest,
      hist := (cmdEvents s.cfg (callFrame s.cfg s.argReg call) e ++ [Event.desel]).reverse ++ s.hist }) :
    Runs (1 + e.wait.length + e.polls.length + 4) s t := by
  subst ht
  refine runs_cmd hp hh ha hrx ?_
  rw [resume_of_decidingReady hcall hready, List.reverse_append]
  exact .silent (by simp) rfl rfl rfl (.refl _)

/-- Settles O46: phase 1, the attempts of the legacy command in time, and the one that finds the card ready. -/
theorem initializeLegacySucceeds : Obligations.InitializeLegacySucceeds := by
  intro s arg t tries0 tries1 e0 e1 rest restT hb hh hs hr0 ha0 hidle hr1 ha1 hready hrx hq w0 w1
  refine request_of_completes (by simp) hb hh (runs_resetPhase rfl hh hr0 ha0 hidle hrx hq ?_) rfl
  rw [startReady_of_legacy (by exact hs)]
  refine ⟨_, runs_readyTries hs rfl hh rfl hr1 rfl rfl fun _ _ _ =>
    runs_readyCmd_succeeds (.inl rfl) rfl hh ha1 hready rfl ?_⟩
  simp [callFrame, callCmd, callArg, beginOperation, beginInitialize, w0, w1]

/-- Settles O47: as under LEGACY, each attempt the pair, whose first command decides nothing. -/
theorem initializeAcmdSucceeds : Obligations.InitializeAcmdSucceeds := by
  intro s arg t tries0 tries1 e0 p1 e1 rest restT hb hh hs hr0 ha0 hidle hr1 hb1 ha1 hready hrx hq w0 w w1
  refine request_of_completes (by simp) hb hh (runs_resetPhase rfl hh hr0 ha0 hidle hrx hq ?_) rfl
  rw [startReady_of_acmd (by exact hs)]
  refine ⟨_, runs_pairTries hs rfl hh rfl hr1 rfl rfl fun _ _ _ => runs_cmd rfl hh hb1 rfl
    (runs_readyCmd_succeeds (.inr rfl) rfl hh ha1 hready rfl ?_)⟩
  simp [callFrame, callCmd, callArg, beginOperation, beginInitialize, resume, w0, w, w1]

/-- The time test of phase 1 past the timeout: the latch takes the last response (R132, R161). -/
theorem runs_resetTick_expired {s : State} {x : Nat} {restT : List Nat} (hp : s.pos = .initResetTick)
    (hq : s.ticks = x :: restT) (hx : expired s.cfg s.cfg.initTimeoutMs (x % 2 ^ s.cfg.tickW) s.t0 = true) :
    Runs 2 s { s with
      errorCode := errorNumber .resetNotAcknowledged, errorData := s.r1, cs := false, ok := false, busy := false,
      pos := .idle, ticks := restT, hist := .desel :: .tick (x % 2 ^ s.cfg.tickW) :: s.hist } := by
  have late : onTick (x % 2 ^ s.cfg.tickW) { s with ticks := restT } =
      goto (.latch .resetFailed) (log (.tick (x % 2 ^ s.cfg.tickW)) { s with ticks := restT }) := by
    simp only [onTick, hp, hx, if_true]
  refine .tick (by rw [hp]; rfl) hq ?_
  rw [late]
  exact runs_latch_fails (site := .resetFailed) rfl rfl

/-- Settles O48: the attempts in time, then one answered by another value than idle and past the timeout. -/
theorem initializeResetTimeout : Obligations.InitializeResetTimeout := by
  intro s arg t x tries e rest restT hb hh hr ha hother hx hrx hq w0
  refine request_of_completes (by simp) hb hh ⟨_, runs_initStart rfl hq rfl
    (runs_resetTries rfl hh rfl hr hrx rfl fun _ _ _ => runs_cmd (n := 2) rfl hh ha rfl ?_)⟩ rfl
  rw [resume, if_neg (by exact hother)]
  simp only [List.reverse_append, List.append_assoc]
  exact runs_resetTick_expired rfl rfl hx

/-! ## `capacity` -/

/-- The transfer of a register image into `CSDR` whose token comes, and the formula over it (R120, R140 to R142). -/
theorem runs_xfer_csdr {s : State} {t0 : Nat} {misses : List (Byte × Nat)} {payload trailer rest : List Byte}
    {restT : List Nat} (hp : s.pos = .tokStart (.startToken .capacity)) (hc : s.cfg.wf = true)
    (hm : Misses s.cfg s.cfg.startToken s.cfg.readTimeoutMs t0 misses) (hpl : payload.length = s.cfg.regLen)
    (htl : trailer.length = s.cfg.trailerLen)
    (hrx : s.rx = tokenAnswers s.cfg.startToken misses ++ (payload ++ (trailer ++ rest)))
    (hq : s.ticks = t0 :: (misses.map Prod.snd ++ restT)) :
    ∃ m free, (∀ v, csdCapacity payload = some v → m = v ∧ free = s.freeCount) ∧
      ∃ n, Runs n s { s with
        capacityOut := m, freeCount := free, csdr := fillFrom s.csdr 0 payload, cs := false, ok := true, busy := false,
        t0 := t0 % 2 ^ s.cfg.tickW, tokOk := true, idx := s.cfg.regLen, pos := .idle, rx := rest, ticks := restT,
        hist := (xferEvents s.cfg .csdr t0 misses payload trailer ++ csdReads payload).reverse ++ s.hist } := by
  obtain ⟨_, hreg, _⟩ := wf_lengths hc
  obtain ⟨m, free, hv, run⟩ := runs_capacity (bs := payload)
    (s := { s with
      csdr := fillFrom s.csdr 0 payload, cs := false, t0 := t0 % 2 ^ s.cfg.tickW, tokOk := true, idx := s.cfg.regLen,
      pos := .capCompute [], rx := rest, ticks := restT,
      hist := (xferEvents s.cfg .csdr t0 misses payload trailer).reverse ++ s.hist }) rfl hreg
    fun i _ hi => readCell_fillFrom_zero (by omega)
  refine ⟨m, free, hv, _, runs_xfer (n := 6) hp (le_refl s.cfg.regLen) hm hpl htl hrx hq ?_⟩
  rw [List.reverse_append, List.append_assoc]
  exact run

/-- Settles O50: the register read into `CSDR`, and the formula over what it left there. -/
theorem capacitySucceeds : Obligations.CapacitySucceeds := by
  intro s arg e t misses payload trailer rest restT hb hh hc ha hr hm hpl htl hrx hq
  obtain ⟨m, free, hv, run⟩ := runs_xfer_csdr (s := goto (.tokStart (.startToken .capacity))
    (responded .capacity arg (frameWord s.cfg s.cfg.cmdReadCsd 0#32) e
      (tokenAnswers s.cfg.startToken misses ++ (payload ++ (trailer ++ rest))) s)) rfl hc hm hpl htl rfl hq
  refine ⟨m, free, hv, request_of_responded (x := .capacity) rfl hb hh ha hrx ?_ rfl⟩
  rw [resume_readCall_of_ready (by exact hr), List.reverse_append, List.append_assoc]
  exact run

/-! ## The command of a block -/

/-- Settles O55: the response leads to the latch, which ends the read. -/
theorem readBlockRejected : Obligations.ReadBlockRejected := by
  intro s n e rest hb hh ha hne hrx
  refine request_of_responded (x := .block) rfl hb hh ha hrx ⟨1, ?_⟩ rfl
  rw [readCall, resume, if_neg (by exact hne), List.reverse_append]
  exact runs_latch_fails (site := .readRejected) rfl rfl

/-- A write from `s` whose command has been answered by `e`. -/
def writeResponded (blockNumber : Word) (e : Exchange) (rest : List Byte) (s : State) : State :=
  { s with
    opReg := 5#3, argReg := blockNumber, busy := true, cs := true, pos := .cmdPoll .writeBlk, r1 := e.r,
    polls := e.polls.length + 1, rx := rest,
    hist := (cmdEvents s.cfg (callFrame s.cfg blockNumber .writeBlk) e).reverse ++ s.hist }

/-- A write presented while idle, by its run from the response to its command on (R24, R152). -/
theorem request_of_writeResponded {blockNumber : Word} {s t : State} {e : Exchange} {rest : List Byte}
    (hb : s.busy = false) (hh : s.host = []) (ha : AnswersCmd s.cfg e) (hrx : s.rx = cmdAnswers s.cfg e ++ rest)
    (h : ∃ n, Runs n (resume .writeBlk (writeResponded blockNumber e rest s)) t) (ht : t.pos = .idle) :
    request 5#3 blockNumber s = .next t := by
  obtain ⟨n, run⟩ := h
  exact request_of_completes (by simp) hb hh
    ⟨_, runs_cmd (s := beginOperation (accept 5#3 blockNumber s)) rfl hh ha hrx run⟩ ht

/-- Settles O58: the response leads to the latch, which ends the write before its token. -/
theorem writeBlockRejected : Obligations.WriteBlockRejected := by
  intro s n e rest hb hh ha hne hrx
  refine request_of_writeResponded hb hh ha hrx ⟨1, ?_⟩ rfl
  rw [resume, if_neg (by exact hne), List.reverse_append]
  exact runs_latch_fails (site := .writeRejected) rfl rfl

/-! ## The data of a write and its busy wait -/

/-- The events of a write's data, oldest first: the token, the cells of `BUF`, the fillers, the data response (R152). -/
def writeEvents (c : Config) (data : List Byte) (ack : Byte) : List Event :=
  .send c.startToken :: (dataEvents 0 data ++ (List.replicate c.trailerLen (.send c.fillByte) ++ [.recv ack]))

/-- A data response that is accepted leads to the busy wait (R69, R154). -/
theorem onByte_dataAccepted {ack : Byte} {s : State} (hp : s.pos = .wrAck)
    (hack : ack &&& s.cfg.dataResMask = s.cfg.dataResAccepted) :
    onByte ack s = .next { s with ack := ack, pos := .tokStart .writeBusy, hist := .recv ack :: s.hist } :=
  (dataResponseDecidesTheWrite s ack hp).1 hack

/-- The data of a write, from its token to an accepting response (R152, R153). -/
theorem runs_writeData {s t : State} {data : List Byte} {ack : Byte} {rest : List Byte} (hp : s.pos = .wrToken)
    (hd : Holds s.buf data) (hlen : data.length = s.cfg.blockLen)
    (hack : ack &&& s.cfg.dataResMask = s.cfg.dataResAccepted) (hrx : s.rx = ack :: rest)
    (h : ∃ n, Runs n { s with
      ack := ack, idx := s.cfg.blockLen, pos := .tokStart .writeBusy, rx := rest,
      hist := (writeEvents s.cfg data ack).reverse ++ s.hist } t) : ∃ n, Runs n s t := by
  obtain ⟨n, wait⟩ := h
  have sent : onSilent s = .next (startWrData (tSend s.cfg.startToken s)) := by simp only [onSilent, hp]
  have cells : ∀ i, ∀ h : i < data.length, readCell s.buf (0 + i) = some data[i] := by simpa [Holds] using hd
  refine ⟨_, .silent (by simp [hp]) (by rw [hp]; rfl) (by rw [hp]; rfl) sent
    (runs_toWrData ((Nat.zero_add _).trans hlen) cells
      (runs_toFill (.byte (n := n) rfl hrx (onByte_dataAccepted rfl hack) ?_)))⟩
  simpa [writeEvents, tSend, log] using wait

/-- A write whose data is accepted, by its run from the busy wait on (R152, R154). -/
theorem request_of_writeAccepted {blockNumber : Word} {s t : State} {e : Exchange} {data : List Byte} {ack : Byte}
    {rest : List Byte} (hb : s.busy = false) (hh : s.host = []) (ha : AnswersCmd s.cfg e) (hr : e.r = s.cfg.r1Ready)
    (hd : Holds s.buf data) (hlen : data.length = s.cfg.blockLen)
    (hack : ack &&& s.cfg.dataResMask = s.cfg.dataResAccepted) (hrx : s.rx = cmdAnswers s.cfg e ++ ack :: rest)
    (h : ∃ n, Runs n { writeResponded blockNumber e rest s with
      ack := ack, idx := s.cfg.blockLen, pos := .tokStart .writeBusy,
      hist := (writeEvents s.cfg data ack).reverse ++ (writeResponded blockNumber e rest s).hist } t)
    (ht : t.pos = .idle) : request 5#3 blockNumber s = .next t := by
  refine request_of_writeResponded hb hh ha hrx ?_ ht
  rw [resume, if_pos (by exact hr)]
  exact runs_writeData rfl hd hlen hack rfl h

/-- The busy wait that ends in time: the last deselect, and the write returns true (R154). -/
theorem runs_busyWait {s : State} {t0 : Nat} {misses : List (Byte × Nat)} {rest : List Byte} {restT : List Nat}
    (hp : s.pos = .tokStart .writeBusy) (hm : Misses s.cfg s.cfg.idleByte s.cfg.writeTimeoutMs t0 misses)
    (hrx : s.rx = tokenAnswers s.cfg.idleByte misses ++ rest) (hq : s.ticks = t0 :: (misses.map Prod.snd ++ restT)) :
    ∃ n, Runs n s { s with
      cs := false, ok := true, busy := false, t0 := t0 % 2 ^ s.cfg.tickW, tokOk := true, pos := .idle, rx := rest,
      ticks := restT,
      hist := .desel :: .recv s.cfg.idleByte :: ((waitEvents s.cfg t0 misses).reverse ++ s.hist) } :=
  ⟨_, runs_wait hp hm hrx hq (.silent (by simp [waitDone]) rfl rfl rfl (.refl _))⟩

/-- The busy wait that runs out: the latch, then the last deselect, and the write returns true all the same (R154 a,
R161). -/
theorem runs_busyTimeout {s : State} {t0 late : Nat} {misses : List (Byte × Nat)} {b : Byte} {rest : List Byte}
    {restT : List Nat} (hp : s.pos = .tokStart .writeBusy)
    (hm : Misses s.cfg s.cfg.idleByte s.cfg.writeTimeoutMs t0 misses) (hne : b ≠ s.cfg.idleByte)
    (hx : expired s.cfg s.cfg.writeTimeoutMs (late % 2 ^ s.cfg.tickW) (t0 % 2 ^ s.cfg.tickW) = true)
    (hrx : s.rx = misses.map Prod.fst ++ b :: rest) (hq : s.ticks = t0 :: (misses.map Prod.snd ++ late :: restT)) :
    ∃ n, Runs n s { s with
      errorCode := errorNumber .writeBusyTimeout, errorData := 0#8, cs := false, ok := true, busy := false,
      t0 := t0 % 2 ^ s.cfg.tickW, tokOk := false, pos := .idle, rx := rest, ticks := restT,
      hist := .desel :: .desel :: .tick (late % 2 ^ s.cfg.tickW) :: .recv b ::
        ((waitEvents s.cfg t0 misses).reverse ++ s.hist) } :=
  ⟨_, runs_waitTimeout hp hm hne hx hrx hq (.silent (by simp [waitDone]) rfl rfl rfl
    (.silent (by simp [latchAt, afterLatch]) rfl rfl rfl (.refl _)))⟩

/-- Settles O57: the command, the data, and the busy wait that ends in time. -/
theorem writeBlockSucceeds : Obligations.WriteBlockSucceeds := by
  intro s n e data ack t misses rest restT hb hh ha hr hd hlen hack hm hrx hq
  refine (request_of_writeAccepted hb hh ha hr hd hlen hack hrx (runs_busyWait rfl hm rfl hq) rfl).trans ?_
  simp [writeResponded, writeEvents, callFrame, callCmd, callArg, blockAddr]

/-- Settles O59: the command, the data, and the busy wait that runs out. -/
theorem writeBlockBusyTimeout : Obligations.WriteBlockBusyTimeout := by
  intro s n e data ack b t late misses rest restT hb hh ha hr hd hlen hack hm hne hx hrx hq
  refine (request_of_writeAccepted hb hh ha hr hd hlen hack hrx (runs_busyTimeout rfl hm hne hx rfl hq) rfl).trans ?_
  simp [writeResponded, writeEvents, callFrame, callCmd, callArg, blockAddr]

end Sys2Proof.Machine
end

section
/-! SUPPORT. What becomes of the error state: only a latch writes it in an event, with its site's code and byte, so each
operation leaves the code that stood before it or one of its own. -/

namespace Sys2Proof.Machine

/-! ## The error state left alone -/

/-- Neither error register has been written (R15, R16). -/
def SameErrors (s t : State) : Prop := t.errorCode = s.errorCode ∧ t.errorData = s.errorData

theorem SameErrors.refl (s : State) : SameErrors s s := ⟨rfl, rfl⟩

theorem SameErrors.trans {s t u : State} (h : SameErrors s t) (h' : SameErrors t u) : SameErrors s u :=
  ⟨h'.1.trans h.1, h'.2.trans h.2⟩

theorem WorkingOnly.sameErrors {s t : State} (h : WorkingOnly s t) : SameErrors s t := by
  obtain ⟨_, _, _, _, _, _, _, rfl⟩ := h
  exact .refl s

theorem toPayload_sameErrors (x : Xfer) (s : State) : SameErrors s (toPayload x s) := by
  obtain ⟨p, e⟩ := toPayload_eq_goto x s
  rw [e]
  exact .refl s

theorem toWrData_sameErrors (s : State) : SameErrors s (toWrData s) :=
  (workingOnly_ite (workingOnly_goto _ s) (toFill_workingOnly _ s)).sameErrors

/-- A failed transfer returns false; the count is `capacity`'s alone (R140, R145, R148). -/
theorem xferFailed_eq_complete (x : Xfer) (s : State) :
    ∃ n, xferFailed x s = complete false { s with capacityOut := n } := by
  cases x
  case capacity => exact ⟨0#32, rfl⟩
  all_goals exact ⟨s.capacityOut, rfl⟩

theorem xferFailed_sameErrors (x : Xfer) (s : State) : SameErrors s (xferFailed x s) := by
  obtain ⟨n, e⟩ := xferFailed_eq_complete x s
  rw [e]
  exact .refl s

theorem xferSucceeded_sameErrors (x : Xfer) (s : State) : SameErrors s (xferSucceeded x s) := by
  cases x <;> exact .refl s

theorem toCompute_sameErrors (got : List Byte) (s : State) : SameErrors s (toCompute got s) := by
  unfold toCompute
  split
  · exact .refl s
  · obtain ⟨n, free, _, e⟩ := capacityDone_eq got s.freeCount
    rw [e s rfl]
    exact .refl s

theorem sendFrame_sameErrors (call : Call) (bs : List Byte) (s : State) : SameErrors s (sendFrame call bs s) := by
  obtain ⟨sent, left, _, ⟨_, e⟩ | ⟨_, _, _, e⟩⟩ := sendFrame_cases call bs s <;> rw [e] <;> exact .refl s

theorem storedByte_sameErrors (x : Xfer) (b : Byte) (s : State) : SameErrors s (storedByte x b s) := by
  cases x <;> exact .refl s

/-! ## One event -/

theorem onTick_sameErrors (n : Nat) (s : State) : SameErrors s (onTick n s) := by
  have ticked := workingOnly_log (.tick n) s
  have goesTo := fun p => ticked.trans (workingOnly_goto p _)
  cases hp : s.pos <;> simp only [onTick, hp]
  case initResetTick => exact (workingOnly_ite (goesTo _) (goesTo _)).sameErrors
  case initReadyTick => exact (workingOnly_ite (goesTo _) (ticked.trans (startReady_workingOnly _))).sameErrors
  case tokTick w => exact (workingOnly_ite (ticked.trans (waitDone_workingOnly w false _)) (goesTo _)).sameErrors
  all_goals exact .refl s

theorem onSilent_sameErrors {s t : State} (hl : ∀ site, s.pos ≠ .latch site) (h : onSilent s = .next t) :
    SameErrors s t := by
  cases hp : s.pos <;> simp only [onSilent, hp] at h
  case latch site => exact absurd hp (hl site)
  case store x b =>
    obtain ⟨_, h⟩ := storeByte_next h
    cases h
    exact (storedByte_sameErrors x b s).trans (toPayload_sameErrors x _)
  case capCompute got =>
    obtain ⟨_, b, _, h⟩ := loadByte_next h
    cases h
    exact toCompute_sameErrors _ (log _ s)
  case wrData =>
    obtain ⟨_, b, _, h⟩ := loadByte_next h
    cases h
    exact .refl s
  all_goals cases h
  case initDesel => exact (toPrime_workingOnly _ (tDesel s)).sameErrors
  case initPrime left => exact (toPrime_workingOnly _ (tSend _ s)).sameErrors
  case cmdFrame call => exact sendFrame_sameErrors call _ s
  case cmdSend call left => exact sendFrame_sameErrors call left s
  case regDesel x => exact xferFailed_sameErrors x (tDesel s)
  case xferDesel x => exact xferSucceeded_sameErrors x (tDesel s)
  case wrToken => exact (startWrData_workingOnly (tSend _ s)).sameErrors
  case wrSend b => exact toWrData_sameErrors { tSend b s with idx := s.idx + 1 }
  case wrFill left => exact (toFill_workingOnly _ (tSend _ s)).sameErrors
  all_goals exact .refl s

/-- An event that is no latch leaves the error state alone (R163, R167). -/
theorem seqStep_sameErrors {s t : State} (hl : ∀ site, s.pos ≠ .latch site) (h : seqStep s = .next t) :
    SameErrors s t := by
  revert h
  refine seqStep_cases (Q := fun r => r = .next t → SameErrors s t) s ?_ ?_ ?_
  · exact fun _ b r f h => (onByte_workingOnly (s := { s with rx := r, freeCount := f }) h).sameErrors
  · rintro _ _ n r f _ ⟨⟩
    exact onTick_sameErrors n { s with ticks := r, freeCount := f }
  · exact fun _ _ h => onSilent_sameErrors hl h

/-- No request but `initialize`'s writes the error state before the first event of its operation (R165). -/
theorem beginOperation_sameErrors {op : BitVec 3} (hop : op ≠ 1#3) (arg : Word) (s : State) :
    SameErrors s (beginOperation (accept op arg s)) := by
  revert hop
  cases op using op_cases
  case initCard => exact fun hop => absurd rfl hop
  all_goals exact fun _ => .refl s

theorem LatchFreeRun.sameErrors {s t : State} (h : LatchFreeRun s t) : SameErrors s t := by
  induction h with
  | refl s => exact .refl s
  | event s s' t hl he _ ih => exact (seqStep_sameErrors hl he).trans ih

/-! ## The latch -/

/-- Every site but the two timeouts returns false (R161, last column). -/
theorem afterLatch_fails {site : LatchSite} (ht : ∀ x, site ≠ .tokenTimeout x) (hb : site ≠ .busyTimeout) :
    afterLatch site = complete false := by
  cases site
  case tokenTimeout x => exact absurd rfl (ht x)
  case busyTimeout => exact absurd rfl hb
  all_goals rfl

theorem afterLatch_aborts {x : Xfer} {s : State} (h : s.cfg.rdTimeoutAbort = true) :
    afterLatch (.tokenTimeout x) s = xferFailed x s := if_pos h

theorem afterLatch_streams {x : Xfer} {s : State} (h : s.cfg.rdTimeoutAbort = false) :
    afterLatch (.tokenTimeout x) s = startPayload x s := if_neg (by simp [h])

/-- The streaming from its start: at the first payload byte, where there is one (R120). -/
theorem startPayload_eq_goto (x : Xfer) (s : State) :
    ∃ p, startPayload x s = goto p { s with idx := 0 } ∧ (0 < xferLen s.cfg x → p = .payload x) := by
  by_cases hlen : 0 < xferLen s.cfg x
  · exact ⟨.payload x, if_pos hlen, fun _ => rfl⟩
  · obtain ⟨p, e⟩ := toPayload_eq_goto x { s with idx := 0 }
    exact ⟨p, e, fun h => absurd h hlen⟩

/-- What follows a latch: the operation returns false, or goes on with its payload index set. -/
theorem afterLatch_cases {Q : State → Prop} (site : LatchSite) (s : State)
    (fails : ∀ n, Q (complete false { s with capacityOut := n })) (goesOn : ∀ p i, Q (goto p { s with idx := i })) :
    Q (afterLatch site s) := by
  cases site
  case tokenTimeout x =>
    cases ha : s.cfg.rdTimeoutAbort
    case true =>
      obtain ⟨n, e⟩ := xferFailed_eq_complete x s
      rw [afterLatch_aborts ha, e]
      exact fails n
    case false =>
      obtain ⟨p, e, _⟩ := startPayload_eq_goto x s
      rw [afterLatch_streams ha, e]
      exact goesOn p 0
  case busyTimeout => exact goesOn _ s.idx
  all_goals exact fails s.capacityOut

/-- The latch of a site records its code and byte and deselects; neither it nor what follows it touches the memories,
the operand or the response (R161, R163). -/
theorem latchAt_leaves (site : LatchSite) (s : State) :
    (latchAt site s).errorCode = errorNumber (siteError s.cfg site) ∧ (latchAt site s).errorData = siteData s site ∧
      (latchAt site s).cs = false ∧ (latchAt site s).hist = .desel :: s.hist ∧ (latchAt site s).buf = s.buf ∧
      (latchAt site s).csdr = s.csdr ∧ (latchAt site s).argReg = s.argReg ∧ (latchAt site s).r1 = s.r1 := by
  unfold latchAt
  exact afterLatch_cases (Q := fun t => t.errorCode = _ ∧ t.errorData = _ ∧ t.cs = _ ∧ t.hist = _ ∧ t.buf = _ ∧
    t.csdr = _ ∧ t.argReg = _ ∧ t.r1 = _) site _ (fun _ => ⟨rfl, rfl, rfl, rfl, rfl, rfl, rfl, rfl⟩)
    (fun _ _ => ⟨rfl, rfl, rfl, rfl, rfl, rfl, rfl, rfl⟩)

/-- The latch of such a site ends the operation. -/
theorem latchAt_fails {site : LatchSite} (ht : ∀ x, site ≠ .tokenTimeout x) (hb : site ≠ .busyTimeout) (s : State) :
    (latchAt site s).busy = false ∧ (latchAt site s).ok = false ∧ (latchAt site s).pos = .idle := by
  rw [latchAt, afterLatch_fails ht hb]
  exact ⟨rfl, rfl, rfl⟩

/-- So does a token timeout that aborts (R121). -/
theorem latchAt_aborts {x : Xfer} {s : State} (h : s.cfg.rdTimeoutAbort = true) :
    (latchAt (.tokenTimeout x) s).busy = false ∧ (latchAt (.tokenTimeout x) s).ok = false ∧
      (latchAt (.tokenTimeout x) s).pos = .idle := by
  obtain ⟨n, e⟩ := xferFailed_eq_complete x (raiseLatch (siteError s.cfg (.tokenTimeout x)) 0#8 s)
  rw [latchAt, afterLatch_aborts (by exact h), siteData, e]
  exact ⟨rfl, rfl, rfl⟩

/-- A token timeout that does not abort goes on to stream the payload, where there is one (R121, R122). -/
theorem latchAt_streams {x : Xfer} {s : State} (h : s.cfg.rdTimeoutAbort = false) :
    (latchAt (.tokenTimeout x) s).busy = s.busy ∧ (latchAt (.tokenTimeout x) s).ok = s.ok ∧
      (latchAt (.tokenTimeout x) s).idx = 0 ∧
      (0 < xferLen s.cfg x → (latchAt (.tokenTimeout x) s).pos = .payload x) := by
  obtain ⟨p, e, hp⟩ := startPayload_eq_goto x (raiseLatch (siteError s.cfg (.tokenTimeout x)) 0#8 s)
  rw [latchAt, afterLatch_streams (by exact h), siteData, e]
  exact ⟨rfl, rfl, rfl, hp⟩

/-- With no move pending the step at a latch is that latch. -/
theorem step_of_latch {site : LatchSite} {s : State} (hh : s.host = []) (hp : s.pos = .latch site) :
    step s = .next (latchAt site s) :=
  (step_of_quiet hh).trans (seqStep_of_latch hp)

/-! ## The errors of an operation -/

/-- The codes that the latches of operation `op` raise (R161). -/
def operationErrors (op : BitVec 3) : List Byte :=
  if op = 1#3 then [errorNumber .resetNotAcknowledged, errorNumber .readyFailedAcmd, errorNumber .readyFailedLegacy]
  else if op = 4#3 then [errorNumber .readCommandRejected, errorNumber .readStartTokenTimeout]
  else if op = 5#3 then
    [errorNumber .writeCommandRejected, errorNumber .writeDataRejected, errorNumber .writeBusyTimeout]
  else [errorNumber .readStartTokenTimeout]

/-- Every code that is raised is a code, and none is reserved (R161, R171). -/
theorem operationErrors_raised {op : BitVec 3} {code : Byte} (h : code ∈ operationErrors op) :
    code ≠ 0#8 ∧ code.toNat ≤ 8 := by
  have raised : ∀ b ∈ operationErrors op, b ≠ 0#8 ∧ b.toNat ≤ 8 := by
    cases op using op_cases <;> decide
  exact raised code h

/-- A site raises an error of the operation it belongs to, under either strategy (R161). -/
theorem siteError_mem_operationErrors (c : Config) (site : LatchSite) :
    errorNumber (siteError c site) ∈ operationErrors (siteOp site) := by
  cases site <;> simp only [siteError]
  case readyFailed => cases c.initStrategy <;> decide
  case tokenTimeout x => cases x <;> decide
  all_goals decide

/-- What an event does to the error code: nothing, or the latch it is raises an error of its operation. -/
theorem seqStep_errorCode {s t : State} (h : seqStep s = .next t) :
    t.errorCode = s.errorCode ∨ ∃ site, s.pos = .latch site ∧ t.errorCode ∈ operationErrors (siteOp site) := by
  by_cases hl : ∃ site, s.pos = .latch site
  · obtain ⟨site, hp⟩ := hl
    cases (seqStep_of_latch hp).symm.trans h
    obtain ⟨hcode, _⟩ := latchAt_leaves site s
    exact .inr ⟨site, hp, hcode ▸ siteError_mem_operationErrors s.cfg site⟩
  · obtain ⟨hcode, _⟩ := seqStep_sameErrors (not_exists.1 hl) h
    exact .inl hcode

/-- An event at a position of operation `op` leaves the code as it was or raises one of the operation's. -/
theorem Located.errorCode_mem {op : BitVec 3} {s t : State} (hl : Located op s) (h : seqStep s = .next t) :
    t.errorCode ∈ s.errorCode :: operationErrors op := by
  obtain hcode | ⟨site, hp, hmem⟩ := seqStep_errorCode h
  · exact hcode ▸ List.mem_cons_self
  · obtain rfl := hl.op_eq hp (posOp_latch site)
    exact List.mem_cons_of_mem _ hmem

/-- A run of the operation's events leaves the code it started from or one of the operation's. -/
theorem settle_errorCode_mem {op : BitVec 3} {n : Nat} {s t : State} (hl : Located op s) (h : settle n s = .next t) :
    t.errorCode ∈ s.errorCode :: operationErrors op := by
  refine (settle_keeps (P := fun u => Located op u ∧ u.errorCode ∈ s.errorCode :: operationErrors op) ?_ n s t
    ⟨hl, List.mem_cons_self⟩ h).2
  rintro u v ⟨hu, hmem⟩ he
  obtain ⟨_, hv⟩ := seqStep_goesOn hu he
  obtain hcode | hraised := List.mem_cons.1 (hu.errorCode_mem he)
  · exact ⟨hv, hcode ▸ hmem⟩
  · exact ⟨hv, List.mem_cons_of_mem _ hraised⟩

/-- A request accepted while idle leaves the code its operation begins with, or one of the operation's errors (R161,
R165, R167). -/
theorem request_errorCode_mem {op : BitVec 3} {arg : Word} {s t : State} (hb : s.busy = false)
    (h : request op arg s = .next t) :
    t.errorCode ∈ (beginOperation (accept op arg s)).errorCode :: operationErrors op := by
  obtain ⟨_, begun⟩ := beginOperation_goesOn op arg s
  revert h
  refine request_cases (Q := fun r => r = .next t → _) ?busy ?waits ?runs
  case busy => simp [hb]
  case waits =>
    rintro _ _ ⟨⟩
    exact List.mem_cons_self
  case runs => exact fun _ _ h => settle_errorCode_mem begun h

/-! ## The step -/

/-- The host's move starts `initialize` or is a reset: what alone clears the error state (R28, R165). -/
def ClearsErrors (s : State) : Prop :=
  (∃ arg rest, s.host = .request (reqWord 1#3 arg) :: rest ∧ s.busy = false) ∨ ∃ rest, s.host = .reset :: rest

/-- Everything a step can do to the error code: nothing, an error of an operation raised, or a clear. -/
theorem step_errorCode {s t : State} (h : step s = .next t) :
    t.errorCode = s.errorCode ∨ (∃ op, t.errorCode ∈ operationErrors op) ∨ t.errorCode = 0#8 ∧ ClearsErrors s := by
  revert h
  refine step_cases (Q := fun r => r = .next t → _) s ?event ?await ?nop ?req ?write ?read ?reset
  case event =>
    intro host _ h
    obtain hcode | ⟨site, _, hmem⟩ := seqStep_errorCode h
    · exact .inl hcode
    · exact .inr (.inl ⟨_, hmem⟩)
  case await | nop =>
    intros
    rename_i h
    cases h
    exact .inl rfl
  case req =>
    intro w rest hh _ h
    cases hb : s.busy
    case true =>
      cases (request_busy (s := { s with host := rest }) hb).symm.trans h
      exact .inl rfl
    case false =>
      obtain hcode | hmem := List.mem_cons.1 (request_errorCode_mem (s := { s with host := rest }) hb h)
      · rw [hcode]
        by_cases hop : reqOp w = 1#3
        · have hw : w = reqWord 1#3 (reqArg w) := by rw [← hop, reqWord_fields]
          exact .inr (.inr ⟨by rw [hop]; rfl, .inl ⟨reqArg w, rest, hw ▸ hh, hb⟩⟩)
        · exact .inl (beginOperation_sameErrors hop _ { s with host := rest }).1
      · exact .inr (.inl ⟨_, hmem⟩)
  case write =>
    intro i b rest _ h
    obtain ⟨_, _, rfl⟩ := hostWrite_next h
    exact .inl rfl
  case read =>
    intro i rest _ h
    obtain ⟨_, rfl⟩ := hostRead_next h
    exact .inl rfl
  case reset =>
    rintro rest hh ⟨⟩
    exact .inr (.inr ⟨rfl, .inr ⟨rest, hh⟩⟩)

end Sys2Proof.Machine
end

section
/-! PROOF. The exceptions (spec/60_exceptions.md): what the latch does at each site, which codes each operation can
leave, and that the error state stands until `initialize` or a reset clears it. -/

namespace Sys2Proof.Machine

/-! ## The error state along steps and runs -/

/-- Settles O19: a step leaves the code, clears it, or raises one of an operation's. -/
theorem reservedCodesNeverRaised : Obligations.ReservedCodesNeverRaised := by
  intro s t hs h
  obtain hcode | ⟨op, hmem⟩ | ⟨hcode, _⟩ := step_errorCode h
  · rwa [hcode]
  · exact (operationErrors_raised hmem).2
  · simp [hcode]

/-- Settles O20: no code that is raised is 0, so a step to 0 is a clear. -/
theorem errorClearedOnlyByInitializeOrReset : Obligations.ErrorClearedOnlyByInitializeOrReset := by
  refine ⟨fun s t h hs ht => ?_, fun _ _ => ⟨rfl, rfl⟩, fun s rest hh => ⟨_, step_of_reset hh, rfl, rfl⟩⟩
  obtain hcode | ⟨op, hmem⟩ | ⟨_, hclear⟩ := step_errorCode h
  · exact absurd (hcode.symm.trans ht) hs
  · exact absurd ht (operationErrors_raised hmem).1
  · exact hclear

/-- Settles O21, by induction on the run: no event of it writes the error state, nor does the request. -/
theorem errorPersistsWithoutLatch : Obligations.ErrorPersistsWithoutLatch := by
  intro s t op arg hop h
  exact (beginOperation_sameErrors hop arg s).trans h.sameErrors

/-- Settles O22: the latches of an operation stand at its own positions only. -/
theorem errorsOfEachOperation : Obligations.ErrorsOfEachOperation := by
  refine ⟨fun s t hi h => hi.located.errorCode_mem h, fun s t arg cmd top hb => ⟨?_, ?_, ?_, ?_, ?_⟩⟩
  all_goals exact fun h => request_errorCode_mem hb h

/-! ## The latch -/

/-- Settles O27: the latch by what it leaves, then by what follows it at its site. -/
theorem latchDoesThreeThings : Obligations.LatchDoesThreeThings := by
  refine ⟨fun _ _ _ => rfl, fun s site hh hp => ?_⟩
  obtain ⟨hcode, hdata, hcs, hhist, hbuf, hcsdr, harg, hr1⟩ := latchAt_leaves site s
  refine ⟨_, step_of_latch hh hp, hcode, hdata, hcs, hhist, hbuf, hcsdr, harg, hr1, fun ht hb => latchAt_fails ht hb s,
    ?aborts, ?streams, ?busyTimeout⟩
  case aborts =>
    rintro ⟨x, rfl⟩ ha
    exact latchAt_aborts ha
  case streams =>
    rintro ⟨x, rfl⟩ ha
    obtain ⟨hbusy, hok, hidx, _⟩ := latchAt_streams (x := x) ha
    exact ⟨hbusy, hok, hidx⟩
  case busyTimeout =>
    rintro rfl
    exact ⟨rfl, rfl, rfl⟩

/-- Settles O28: each row is the latch of its site; the streaming begins where there is a payload. -/
theorem errorTable : Obligations.ErrorTable := by
  intro s hh
  have returnsFalse : ∀ site, (∀ x, site ≠ .tokenTimeout x) → site ≠ .busyTimeout → s.pos = .latch site →
      ∃ t, step s = .next t ∧ t.errorCode = errorNumber (siteError s.cfg site) ∧ t.errorData = siteData s site ∧
        t.ok = false := by
    intro site ht hb hp
    obtain ⟨hcode, hdata, _⟩ := latchAt_leaves site s
    obtain ⟨_, hok, _⟩ := latchAt_fails ht hb s
    exact ⟨_, step_of_latch hh hp, hcode, hdata, hok⟩
  have readyFailed := returnsFalse .readyFailed (by simp) (by simp)
  refine ⟨returnsFalse .resetFailed (by simp) (by simp), fun hp hs => ?acmd, fun hp hs => ?legacy,
    returnsFalse .writeRejected (by simp) (by simp), returnsFalse .readRejected (by simp) (by simp),
    fun x hp => ?tokenTimeout, returnsFalse .dataRejected (by simp) (by simp),
    fun hp => ⟨_, step_of_latch hh hp, rfl, rfl, rfl⟩⟩
  case acmd | legacy =>
    simp only [siteError, hs] at readyFailed
    exact readyFailed hp
  case tokenTimeout =>
    obtain ⟨hcode, hdata, _⟩ := latchAt_leaves (.tokenTimeout x) s
    refine ⟨_, step_of_latch hh hp, hcode, hdata, fun ha => ?_, fun ha hlen => ?_⟩
    · obtain ⟨hbusy, hok, _⟩ := latchAt_aborts (x := x) ha
      exact ⟨hok, hbusy⟩
    · obtain ⟨_, _, hidx, hpos⟩ := latchAt_streams (x := x) ha
      exact ⟨hpos hlen, hidx⟩

end Sys2Proof.Machine
end

section
/-! PROOF. The opcode table's words (spec/30_encoding.md): a word that encodes an instruction decodes to it, also where
no position says how a byte is to be read. -/

namespace Sys2Proof.Machine

/-- The unit of a well-formed instruction stands for it also without a position, a byte where `tableCtx` reads it at the
instruction's own. -/
theorem decodeAlone_of_encode {c : Config} {i : Instr} (hc : c.wf = true) (hi : i.wellFormed c = true)
    (hctx : ∀ b, encode c i = .byte b → tableCtx c b = i.ctx) : decodeAlone c (encode c i) = .ok i := by
  have roundTrip := decodeOfEncode c i hc hi
  cases h : encode c i with
  | hostReq w => rwa [h] at roundTrip
  | frame w => rwa [h] at roundTrip
  | byte b =>
    rw [h, ← hctx b h] at roundTrip
    exact roundTrip

/-- A word of the table's numbering that is the unit of a well-formed instruction decodes to it. -/
theorem decodeTableWord_of_encode {nbits w : Nat} {i : Instr} (hw : wireOf nbits w = .ok (encode Config.atReset i))
    (hi : i.wellFormed Config.atReset = true)
    (hctx : ∀ b, encode Config.atReset i = .byte b → tableCtx Config.atReset b = i.ctx) :
    decodeTableWord nbits w = some i := by
  rw [decodeTableWord, hw]
  exact congrArg Except.toOption (decodeAlone_of_encode rfl hi hctx)

/-- Settles O3: nine words are the encodings of their instructions, so O1 reads them back; the frame of index 0 with the filler
checksum is refused (R66, log 13). -/
theorem wordsOfTheTableDecode : Obligations.WordsOfTheTableDecode := by
  have badChecksum : decodeFrame Config.atReset 0x4000000000FF#48 = .error .badChecksum := rfl
  refine ⟨decodeTableWord_of_encode rfl rfl nofun, decodeTableWord_of_encode rfl rfl nofun,
    decodeTableWord_of_encode rfl rfl nofun, decodeTableWord_of_encode rfl rfl nofun,
    decodeTableWord_of_encode rfl rfl nofun, decodeTableWord_of_encode rfl rfl nofun,
    decodeTableWord_of_encode rfl rfl nofun, congrArg Except.toOption badChecksum, ?startToken, ?notYet⟩
  case startToken | notYet =>
    refine decodeTableWord_of_encode rfl rfl ?_
    rintro _ ⟨⟩
    rfl

end Sys2Proof.Machine
end
